-- ==== Sys2Proof/Word.lean ====
section
/-! DEFINITION. The word types of the block (00_scope.md R7, R12): every value is an unsigned bit
vector, an address is a natural number computed without any wrap (20_memory.md R82). -/

namespace Sys2Proof

/-- A byte: a general register, a memory byte, a timer. -/
abbrev Byte := BitVec 8

/-- A 16-bit word: an opcode, the program counter, the index register, a stack entry. -/
abbrev Word := BitVec 16

/-- A 4-bit field of an opcode. -/
abbrev Nibble := BitVec 4

/-- The 12-bit address field nnn of an opcode. -/
abbrev Addr12 := BitVec 12

end Sys2Proof
end

