-- ==== Sys2Proof/Syntax.lean ====
section
/-! DEFINITION. The instructions: one constructor for each of the 36 rows of the opcode map
(30_encoding.md R121), operands as in R112 and R113. A nibble that the decoder ignores ("?" in a
pattern of R121, and the unread y of SHR and SHL) is kept as an operand, so that an opcode and its
instruction determine each other and a fault record can hold the opcode (60_exceptions.md R321). -/

namespace Sys2Proof

/-- A general register V0..VF, by its index (R32, R112). -/
abbrev Reg := Fin 16

/-- The instructions of R121, in the order of its rows. -/
inductive Instr where
  /-- CLS, `0?E0`; z is the ignored op[11:8]. -/
  | cls (z : Nibble)
  /-- RET, `0?EE`; z is the ignored op[11:8]. -/
  | ret (z : Nibble)
  /-- SYS addr, every other word of family 0x0. -/
  | sys (nnn : Addr12)
  /-- JP addr. -/
  | jpAddr (nnn : Addr12)
  /-- CALL addr. -/
  | callAddr (nnn : Addr12)
  /-- SE Vx, byte. -/
  | seByte (x : Reg) (kk : Byte)
  /-- SNE Vx, byte. -/
  | sneByte (x : Reg) (kk : Byte)
  /-- SE Vx, Vy, `5xy?`; z is the ignored op[3:0]. -/
  | seReg (x y : Reg) (z : Nibble)
  /-- LD Vx, byte. -/
  | ldByte (x : Reg) (kk : Byte)
  /-- ADD Vx, byte. -/
  | addByte (x : Reg) (kk : Byte)
  /-- LD Vx, Vy. -/
  | ldReg (x y : Reg)
  /-- OR Vx, Vy. -/
  | orReg (x y : Reg)
  /-- AND Vx, Vy. -/
  | andReg (x y : Reg)
  /-- XOR Vx, Vy. -/
  | xorReg (x y : Reg)
  /-- ADD Vx, Vy. -/
  | addReg (x y : Reg)
  /-- SUB Vx, Vy. -/
  | subReg (x y : Reg)
  /-- SHR Vx, with the encoded and unread y. -/
  | shr (x y : Reg)
  /-- SUBN Vx, Vy. -/
  | subn (x y : Reg)
  /-- SHL Vx, with the encoded and unread y. -/
  | shl (x y : Reg)
  /-- SNE Vx, Vy, `9xy?`; z is the ignored op[3:0]. -/
  | sneReg (x y : Reg) (z : Nibble)
  /-- LD I, addr. -/
  | ldI (nnn : Addr12)
  /-- JP V0, addr. -/
  | jpV0 (nnn : Addr12)
  /-- RND Vx, byte. -/
  | rnd (x : Reg) (kk : Byte)
  /-- DRW Vx, Vy, nibble; n is the row count. -/
  | drw (x y : Reg) (n : Nibble)
  /-- SKP Vx. -/
  | skp (x : Reg)
  /-- SKNP Vx. -/
  | sknp (x : Reg)
  /-- LD Vx, DT. -/
  | ldVxDT (x : Reg)
  /-- LD Vx, K. -/
  | ldVxK (x : Reg)
  /-- LD DT, Vx. -/
  | ldDTVx (x : Reg)
  /-- LD ST, Vx. -/
  | ldSTVx (x : Reg)
  /-- ADD I, Vx. -/
  | addI (x : Reg)
  /-- LD F, Vx. -/
  | ldF (x : Reg)
  /-- LD B, Vx. -/
  | ldB (x : Reg)
  /-- LD [I], Vx: store V0..Vx. -/
  | storeRegs (x : Reg)
  /-- LD Vx, [I]: load V0..Vx. -/
  | loadRegs (x : Reg)
  /-- A word that none of the 35 rows matches (R122). -/
  | unimplemented (op : Word)
  deriving DecidableEq, Repr

end Sys2Proof
end

