-- ==== Sys2Proof/WellFormed.lean ====
section
/-! DEFINITION. Which instruction terms stand for an opcode. The operand types already bound every
field (30_encoding.md R112). Two rows of R121 exclude words of other rows: SYS excludes the words of
CLS and RET (R115), and the unimplemented opcodes are exactly those of R122. -/

namespace Sys2Proof

/-- An nnn that makes a family-0x0 word SYS: its low byte is neither 0xE0 nor 0xEE (R115). -/
def sysField (nnn : Addr12) : Bool :=
  let kk : Byte := nnn.extractLsb' 0 8
  kk != 0xE0 && kk != 0xEE

/-- The unimplemented opcodes, as R122 lists them by family and selector. -/
def unlistedOpcode (op : Word) : Bool :=
  let family : Nibble := op.extractLsb' 12 4
  let n : Nibble := op.extractLsb' 0 4
  let kk : Byte := op.extractLsb' 0 8
  (family == 0x8 && [0x8, 0x9, 0xA, 0xB, 0xC, 0xD, 0xF].contains n) ||
  (family == 0xE && !([0x9E, 0xA1].contains kk)) ||
  (family == 0xF && !([0x07, 0x0A, 0x15, 0x18, 0x1E, 0x29, 0x33, 0x55, 0x65].contains kk))

/-- The instruction is the meaning of some opcode. -/
def Instr.wellFormed : Instr → Bool
  | .sys nnn => sysField nnn
  | .unimplemented op => unlistedOpcode op
  | .cls _ => true
  | .ret _ => true
  | .jpAddr _ => true
  | .callAddr _ => true
  | .seByte _ _ => true
  | .sneByte _ _ => true
  | .seReg _ _ _ => true
  | .ldByte _ _ => true
  | .addByte _ _ => true
  | .ldReg _ _ => true
  | .orReg _ _ => true
  | .andReg _ _ => true
  | .xorReg _ _ => true
  | .addReg _ _ => true
  | .subReg _ _ => true
  | .shr _ _ => true
  | .subn _ _ => true
  | .shl _ _ => true
  | .sneReg _ _ _ => true
  | .ldI _ => true
  | .jpV0 _ => true
  | .rnd _ _ => true
  | .drw _ _ _ => true
  | .skp _ => true
  | .sknp _ => true
  | .ldVxDT _ => true
  | .ldVxK _ => true
  | .ldDTVx _ => true
  | .ldSTVx _ => true
  | .addI _ => true
  | .ldF _ => true
  | .ldB _ => true
  | .storeRegs _ => true
  | .loadRegs _ => true

end Sys2Proof
end

