-- ==== Sys2Proof/Decode.lean ====
section
/-! DEFINITION. The decoder (30_encoding.md R114 to R121), the encoder written from the same map, and
the byte order of an opcode (20_memory.md R84). Decoding is total on 16-bit words and reads nothing but
the opcode (R124). -/

namespace Sys2Proof

/-! ### Fields (R14, R112) -/

/-- op[15:12], the family. -/
def opFamily (op : Word) : Nibble := op.extractLsb' 12 4

/-- op[11:8] as four bits (the field x, or an ignored nibble). -/
def opHigh (op : Word) : Nibble := op.extractLsb' 8 4

/-- x = op[11:8], a register index. -/
def opX (op : Word) : Reg := (op.extractLsb' 8 4).toFin

/-- y = op[7:4], a register index. -/
def opY (op : Word) : Reg := (op.extractLsb' 4 4).toFin

/-- n = op[3:0]. -/
def opN (op : Word) : Nibble := op.extractLsb' 0 4

/-- kk = op[7:0]. -/
def opKK (op : Word) : Byte := op.extractLsb' 0 8

/-- nnn = op[11:0]. -/
def opNNN (op : Word) : Addr12 := op.extractLsb' 0 12

/-! ### Decoding -/

/-- Family 0x0 sub-dispatches on the low byte, whatever op[11:8] holds (R115). -/
def decodeFamily0 (op : Word) : Instr :=
  if opKK op = 0xE0 then .cls (opHigh op)
  else if opKK op = 0xEE then .ret (opHigh op)
  else .sys (opNNN op)

/-- Family 0x8 sub-dispatches on the low nibble (R116). -/
def decodeFamily8 (op : Word) : Instr :=
  if opN op = 0x0 then .ldReg (opX op) (opY op)
  else if opN op = 0x1 then .orReg (opX op) (opY op)
  else if opN op = 0x2 then .andReg (opX op) (opY op)
  else if opN op = 0x3 then .xorReg (opX op) (opY op)
  else if opN op = 0x4 then .addReg (opX op) (opY op)
  else if opN op = 0x5 then .subReg (opX op) (opY op)
  else if opN op = 0x6 then .shr (opX op) (opY op)
  else if opN op = 0x7 then .subn (opX op) (opY op)
  else if opN op = 0xE then .shl (opX op) (opY op)
  else .unimplemented op

/-- Family 0xE sub-dispatches on the low byte (R117). -/
def decodeFamilyE (op : Word) : Instr :=
  if opKK op = 0x9E then .skp (opX op)
  else if opKK op = 0xA1 then .sknp (opX op)
  else .unimplemented op

/-- Family 0xF sub-dispatches on the low byte (R118). -/
def decodeFamilyF (op : Word) : Instr :=
  if opKK op = 0x07 then .ldVxDT (opX op)
  else if opKK op = 0x0A then .ldVxK (opX op)
  else if opKK op = 0x15 then .ldDTVx (opX op)
  else if opKK op = 0x18 then .ldSTVx (opX op)
  else if opKK op = 0x1E then .addI (opX op)
  else if opKK op = 0x29 then .ldF (opX op)
  else if opKK op = 0x33 then .ldB (opX op)
  else if opKK op = 0x55 then .storeRegs (opX op)
  else if opKK op = 0x65 then .loadRegs (opX op)
  else .unimplemented op

/-- The dispatcher: the family picks the handler, and families 0x0, 0x8, 0xE and 0xF select within
the family (R114 to R120, R143). -/
def decode (op : Word) : Instr :=
  if opFamily op = 0x0 then decodeFamily0 op
  else if opFamily op = 0x1 then .jpAddr (opNNN op)
  else if opFamily op = 0x2 then .callAddr (opNNN op)
  else if opFamily op = 0x3 then .seByte (opX op) (opKK op)
  else if opFamily op = 0x4 then .sneByte (opX op) (opKK op)
  else if opFamily op = 0x5 then .seReg (opX op) (opY op) (opN op)
  else if opFamily op = 0x6 then .ldByte (opX op) (opKK op)
  else if opFamily op = 0x7 then .addByte (opX op) (opKK op)
  else if opFamily op = 0x8 then decodeFamily8 op
  else if opFamily op = 0x9 then .sneReg (opX op) (opY op) (opN op)
  else if opFamily op = 0xA then .ldI (opNNN op)
  else if opFamily op = 0xB then .jpV0 (opNNN op)
  else if opFamily op = 0xC then .rnd (opX op) (opKK op)
  else if opFamily op = 0xD then .drw (opX op) (opY op) (opN op)
  else if opFamily op = 0xE then decodeFamilyE op
  else decodeFamilyF op

/-- Why bytes are no instruction. Every 16-bit word is one (R122, R124), so the only reason is that
there are fewer than two bytes. -/
inductive DecodeError where
  /-- Fewer than the two bytes of an opcode (R110). -/
  | truncated
  deriving DecidableEq, Repr

/-- The big-endian word of two bytes, the first in op[15:8] (R83, R84). -/
def wordOfBytes (hi lo : Byte) : Word := hi ++ lo

/-- Decode the first instruction of a list of bytes, and give back the rest (R110). -/
def decodeBytes : List Byte → Except DecodeError (Instr × List Byte)
  | hi :: lo :: rest => .ok (decode (wordOfBytes hi lo), rest)
  | [_] => .error .truncated
  | [] => .error .truncated

/-! ### Encoding -/

/-- A register index as the four bits of its field. -/
def regField (r : Reg) : Nibble := BitVec.ofFin r

/-- A word of format NNN (R111). -/
def formatNNN (family : Nibble) (nnn : Addr12) : Word := family ++ nnn

/-- A word of format XKK or ZKK (R111). -/
def formatXKK (family x : Nibble) (kk : Byte) : Word := family ++ x ++ kk

/-- A word of format XYN (R111). -/
def formatXYN (family x y n : Nibble) : Word := family ++ x ++ y ++ n

/-- The opcode of an instruction, from the rows of R121. -/
def encode : Instr → Word
  | .cls z => formatXKK 0x0 z 0xE0
  | .ret z => formatXKK 0x0 z 0xEE
  | .sys nnn => formatNNN 0x0 nnn
  | .jpAddr nnn => formatNNN 0x1 nnn
  | .callAddr nnn => formatNNN 0x2 nnn
  | .seByte x kk => formatXKK 0x3 (regField x) kk
  | .sneByte x kk => formatXKK 0x4 (regField x) kk
  | .seReg x y z => formatXYN 0x5 (regField x) (regField y) z
  | .ldByte x kk => formatXKK 0x6 (regField x) kk
  | .addByte x kk => formatXKK 0x7 (regField x) kk
  | .ldReg x y => formatXYN 0x8 (regField x) (regField y) 0x0
  | .orReg x y => formatXYN 0x8 (regField x) (regField y) 0x1
  | .andReg x y => formatXYN 0x8 (regField x) (regField y) 0x2
  | .xorReg x y => formatXYN 0x8 (regField x) (regField y) 0x3
  | .addReg x y => formatXYN 0x8 (regField x) (regField y) 0x4
  | .subReg x y => formatXYN 0x8 (regField x) (regField y) 0x5
  | .shr x y => formatXYN 0x8 (regField x) (regField y) 0x6
  | .subn x y => formatXYN 0x8 (regField x) (regField y) 0x7
  | .shl x y => formatXYN 0x8 (regField x) (regField y) 0xE
  | .sneReg x y z => formatXYN 0x9 (regField x) (regField y) z
  | .ldI nnn => formatNNN 0xA nnn
  | .jpV0 nnn => formatNNN 0xB nnn
  | .rnd x kk => formatXKK 0xC (regField x) kk
  | .drw x y n => formatXYN 0xD (regField x) (regField y) n
  | .skp x => formatXKK 0xE (regField x) 0x9E
  | .sknp x => formatXKK 0xE (regField x) 0xA1
  | .ldVxDT x => formatXKK 0xF (regField x) 0x07
  | .ldVxK x => formatXKK 0xF (regField x) 0x0A
  | .ldDTVx x => formatXKK 0xF (regField x) 0x15
  | .ldSTVx x => formatXKK 0xF (regField x) 0x18
  | .addI x => formatXKK 0xF (regField x) 0x1E
  | .ldF x => formatXKK 0xF (regField x) 0x29
  | .ldB x => formatXKK 0xF (regField x) 0x33
  | .storeRegs x => formatXKK 0xF (regField x) 0x55
  | .loadRegs x => formatXKK 0xF (regField x) 0x65
  | .unimplemented op => op

/-- The two bytes of an opcode as memory holds them, the first at the lower address (R84). -/
def bytesOfWord (op : Word) : List Byte := [op.extractLsb' 8 8, op.extractLsb' 0 8]

/-- The opcode whose bits 15..0 are w's lowest nbits bits, the bits above them zero. -/
def tableWord (nbits w : Nat) : Word := BitVec.ofNat 16 (w % 2 ^ nbits)

/-- The instruction the decoder reads from the bytes of an opcode numbered as the opcode table
numbers its bits: the word is laid out big-endian and given to `decodeBytes`. -/
def decodeTableWord (nbits w : Nat) : Option Instr :=
  match decodeBytes (bytesOfWord (tableWord nbits w)) with
  | .ok (i, _) => some i
  | .error _ => none

end Sys2Proof
end

