-- ==== Sys2Proof/Config.lean ====
section
/-! DEFINITION. The parameters of the block: the fixed ones (00_scope.md R7), the default of FONTSET
(10_state.md R44) and the free random byte of RND (44_index_jump_random.md R246). -/

namespace Sys2Proof

/-- MEM_SIZE: memory has the addresses 0x000 to 0xFFF (R7, R80). -/
def Config.memSize : Nat := 4096

/-- FONT_BASE: the font stands at 0x050 to 0x09F (R7, R44). -/
def Config.fontBase : Nat := 0x050

/-- FONT_GLYPH_BYTES: glyph d stands at FONT_BASE + 5 * d (R7, R295). -/
def Config.glyphBytes : Nat := 5

/-- PROGRAM_BASE: where LoadProgram puts a program and where it starts (R7, R353). -/
def Config.programBase : Nat := 0x200

/-- DISPLAY_W and DISPLAY_H, as a Draw event reports them (R7, R150). -/
def Config.displayW : Nat := 64

/-- See `Config.displayW`. -/
def Config.displayH : Nat := 32

/-- The default FONTSET of R44: sixteen glyphs of five bytes, in digit order. The source gives the
place of the font and not its bytes, so this is only the value State.reset is built with: State
carries FONTSET as a parameter and every statement about all states holds for every FONTSET.
PRESUMED (R44 marks the bytes as general knowledge; notes/assumptions/2.md). -/
def Config.defaultFont : Vector Byte 80 := ⟨#[
  0xF0, 0x90, 0x90, 0x90, 0xF0,  0x20, 0x60, 0x20, 0x20, 0x70,
  0xF0, 0x10, 0xF0, 0x80, 0xF0,  0xF0, 0x10, 0xF0, 0x10, 0xF0,
  0x90, 0x90, 0xF0, 0x10, 0x10,  0xF0, 0x80, 0xF0, 0x10, 0xF0,
  0xF0, 0x80, 0xF0, 0x90, 0xF0,  0xF0, 0x10, 0x20, 0x40, 0x40,
  0xF0, 0x90, 0xF0, 0x90, 0xF0,  0xF0, 0x90, 0xF0, 0x10, 0xF0,
  0xF0, 0x90, 0xF0, 0x90, 0x90,  0xE0, 0x90, 0xE0, 0x90, 0xE0,
  0xF0, 0x80, 0x80, 0x80, 0xF0,  0xE0, 0x90, 0x90, 0x90, 0xE0,
  0xF0, 0x80, 0xF0, 0x80, 0xF0,  0xF0, 0x80, 0xF0, 0x80, 0x80], rfl⟩

/-- The n-th random byte the environment hands to a cycle (R8 (b), R246): a FREE VALUE. It has no
body, so nothing can be proved about it and a statement that names it holds for every byte
(notes/assumptions/3.md). -/
opaque Config.randomByte : Nat → Byte

end Sys2Proof
end

