-- ==== Sys2Proof/Machine/State.lean ====
section
/-! DEFINITION. The state of the block (10_state.md R30 to R50) as plain data, its state after
construction and Reset (70_reset_and_hazards.md R350, R351), and the reasons a step can stop. -/

namespace Sys2Proof.Machine

/-- Memory: the bytes that differ from what an unlisted address reads as, by rising address. An
unlisted address reads as the reset contents of R44 (`Memory.unlisted`). -/
abbrev Memory := List Host.Cell

/-- A registered observer, by a number the host gives it (R46). -/
abbrev Observer := Nat

/-- The fault kinds (60_exceptions.md R323). -/
inductive FaultKind where
  /-- A memory address of 4096 or more. -/
  | memBounds
  /-- CALL with sixteen outstanding calls. -/
  | stackOverflow
  /-- RET with no outstanding call. -/
  | stackUnderflow
  /-- SKP or SKNP with Vx above 15. -/
  | keyIndex
  deriving DecidableEq, Repr

/-- A fault record (R47, R321): the kind, the fetch address A, the opcode (`none` for a fetch fault)
and the offending address or value. -/
structure FaultRecord where
  kind : FaultKind
  addr : Word
  op   : Option Word
  info : Nat
  deriving DecidableEq, Repr

/-- The events of the block (00_scope.md R11). -/
inductive Event where
  /-- Draw(snapshot, width, height), from CLS and DRW (R150). -/
  | draw (snapshot : List Byte) (width height : Nat)
  /-- Sound, from the timer step (R147). -/
  | sound
  /-- Diag(opcode), from an unimplemented opcode (R145). -/
  | diag (op : Word)
  /-- Fault(record), on entering the faulted state (R321). -/
  | fault (record : FaultRecord)
  deriving DecidableEq, Repr

/-- The random byte a Cycle is called with (R10, R246): a byte the host names, or the n-th free byte
of the environment. -/
inductive RndArg where
  | given (b : Byte)
  | free (n : Nat)
  deriving DecidableEq, Repr

/-- The byte itself; of a free one nothing is known. -/
def RndArg.byte : RndArg → Byte
  | .given b => b
  | .free n => Config.randomByte n

/-- The state of R30, and the model's own four fields. -/
structure State where
  /-- The bytes of mem[0..4095] that differ from their reset contents. -/
  mem      : Memory
  /-- V[0..15]. -/
  v        : Vector Byte 16
  /-- The index register I. -/
  i        : Word
  /-- The program counter: at the start of a cycle the address of the instruction to fetch, while an
  instruction executes that address plus 2 (R35). -/
  pc       : Word
  /-- stack[0..15]. -/
  stack    : Vector Word 16
  /-- SP, the number of entries in use, 0..16 (R40). -/
  sp       : Fin 17
  /-- fb[0..31][0..63], row by row (R43). -/
  fb       : Vector (Vector Bool 64) 32
  /-- The delay timer DT. -/
  dt       : Byte
  /-- The sound timer ST. -/
  st       : Byte
  /-- key[0..15], true = pressed. -/
  key      : Vector Bool 16
  /-- draw_flag. -/
  drawFlag : Bool
  /-- draw_obs. -/
  drawObs  : Option Observer
  /-- sound_obs. -/
  soundObs : Option Observer
  /-- The fault record, `none` while the block runs. -/
  fault    : Option FaultRecord
  /-- Model's own: the parameter FONTSET of this block (R8 (a)); nothing changes it. -/
  fontset  : Vector Byte 80
  /-- Model's own: the random byte of the Cycle in progress, or of the last one (R10). -/
  rnd      : RndArg
  /-- Model's own: how many cycles have executed; it numbers the free random bytes. -/
  cycles   : Nat
  /-- Model's own: the event list of the transaction in progress, or of the last one (R11, R13). -/
  events   : List Event
  deriving DecidableEq, Repr

/-- No step of this machine ends in a fault of the host's interface, so this type has no constructor:
a fault of the spec is a next state with `State.fault` set, in which the block stays until Reset
(R321, R149). That is what the spec describes, so the choice is safe. -/
inductive Fault where
  deriving DecidableEq, Repr

/-- Why the model gives no next state. -/
inductive Refusal where
  /-- Raised only by an arm of exec whose instruction has no meaning yet; no arm is so now. Safe: the
  model stops. -/
  | notModelled (mnemonic : String)
  /-- Raised by `observerCall` when an observer calls Cycle, RunFrame, Reset, LoadProgram or a
  registration: the host must not, and the spec gives no step for it (R156, R366, U1). Safe: the
  model stops. -/
  | reentrantCall
  deriving DecidableEq, Repr

/-- What a step, a meaning or a cycle answers. -/
abbrev StepResult := Host.Outcome State Fault Refusal

/-- A newly constructed block with the given FONTSET (R350, R351): every element of R30 at its reset
value and no observer. Memory lists nothing, so it reads as zero with FONTSET at 0x050. -/
def State.construct (fontset : Vector Byte 80) : State where
  mem      := []
  v        := Vector.replicate 16 0
  i        := 0x0000
  pc       := 0x0000
  stack    := Vector.replicate 16 0
  sp       := 0
  fb       := Vector.replicate 32 (Vector.replicate 64 false)
  dt       := 0
  st       := 0
  key      := Vector.replicate 16 false
  drawFlag := false
  drawObs  := none
  soundObs := none
  fault    := none
  fontset  := fontset
  rnd      := .free 0
  cycles   := 0
  events   := []

/-- The machine right after construction, with the default FONTSET (R44, R351). -/
def State.reset : State := State.construct Config.defaultFont

end Sys2Proof.Machine
end

