-- ==== Sys2Proof/Machine/Ops.lean ====
section
/-! DEFINITION. The named operations over memory, registers, stack, framebuffer, keypad, timers and
events, and entering the faulted state. Every meaning is written over these. -/

namespace Sys2Proof.Machine

/-! ### Memory (20_memory.md) -/

/-- What an address that memory does not list reads as: its contents after Reset, FONTSET at
0x050..0x09F and zero elsewhere (R44). -/
def Memory.unlisted (fontset : Vector Byte 80) (a : Nat) : Byte :=
  if h : 0x050 ≤ a ∧ a < 0x0A0 then fontset[a - 0x050] else 0

/-- The byte at address a. -/
def Memory.read (fontset : Vector Byte 80) : Memory → Nat → Byte
  | [], a => Memory.unlisted fontset a
  | (b, w) :: rest, a => if a = b then w else Memory.read fontset rest a

/-- List the byte w at address a, keeping addresses rising. -/
def Memory.insert : Memory → Nat → Byte → Memory
  | [], a, w => [(a, w)]
  | (b, u) :: rest, a, w =>
    if a < b then (a, w) :: (b, u) :: rest
    else if a = b then (a, w) :: rest
    else (b, u) :: Memory.insert rest a w

/-- List no byte at address a. -/
def Memory.erase (m : Memory) (a : Nat) : Memory := m.filter (fun c => c.1 != a)

/-- Store byte w at address a, keeping the canonical form: the value an unlisted address reads as is
not listed. -/
def Memory.write (fontset : Vector Byte 80) (m : Memory) (a : Nat) (w : Byte) : Memory :=
  if w = Memory.unlisted fontset a then Memory.erase m a else Memory.insert m a w

/-- The canonical form: addresses strictly rising, all of them addresses of memory, and no entry equal
to what its address reads as when unlisted. -/
abbrev Memory.wf (fontset : Vector Byte 80) (m : Memory) : Prop :=
  m.Pairwise (fun c d => c.1 < d.1) ∧
    ∀ c ∈ m, c.1 < Config.memSize ∧ c.2 ≠ Memory.unlisted fontset c.1

/-- MemRead(a, 1) of an address known to be below 4096 (R13). -/
def State.readByte (s : State) (a : Nat) : Byte := Memory.read s.fontset s.mem a

/-- MemWrite(a, 1, w) of an address known to be below 4096 (R13). -/
def State.writeByte (s : State) (a : Nat) (w : Byte) : State :=
  { s with mem := Memory.write s.fontset s.mem a w }

/-- The lowest address of the block base .. base + n - 1 that is 4096 or more, if any: base + k is
computed without wrap (R81, R82, R324). -/
def firstOutside (base n : Nat) : Option Nat :=
  ((List.range n).map (base + ·)).find? (fun a => decide (Config.memSize ≤ a))

/-- Store bytes at base, base + 1, ... in increasing address order (R90). -/
def State.storeBytes (s : State) (base : Nat) : List Byte → State
  | [] => s
  | w :: rest => (s.writeByte base w).storeBytes (base + 1) rest

/-! ### Registers -/

/-- V[r]. -/
def State.reg (s : State) (r : Reg) : Byte := s.v[r.val]

/-- V[r] <- w. -/
def State.setReg (s : State) (r : Reg) (w : Byte) : State := { s with v := s.v.set r.val w }

/-- VF, the register that doubles as the flag (R34). -/
def vf : Reg := 0xF

/-- V[x] <- r, then V[0xF] <- f: with x = 0xF the flag survives (R211). -/
def State.setRegFlag (s : State) (x : Reg) (r f : Byte) : State := (s.setReg x r).setReg vf f

/-- I <- w. -/
def State.setI (s : State) (w : Word) : State := { s with i := w }

/-- pc <- w. -/
def State.setPc (s : State) (w : Word) : State := { s with pc := w }

/-- DT <- w. -/
def State.setDt (s : State) (w : Byte) : State := { s with dt := w }

/-- ST <- w. -/
def State.setSt (s : State) (w : Byte) : State := { s with st := w }

/-- Skip: pc <- (pc + 2) mod 2^16 when the condition holds (R190). -/
def State.skipIf (s : State) (cond : Bool) : State := if cond then s.setPc (s.pc + 2) else s

/-! ### Call stack (R40) -/

/-- stack[SP] <- w, SP <- SP + 1; `none` when the stack is full. -/
def State.push (s : State) (w : Word) : Option State :=
  if h : s.sp.val < 16 then
    some { s with stack := s.stack.set s.sp.val w, sp := ⟨s.sp.val + 1, by omega⟩ }
  else none

/-- SP <- SP - 1, then stack[SP]; `none` when no entry is in use. The entry keeps its value. -/
def State.pop (s : State) : Option (Word × State) :=
  if h : s.sp.val = 0 then none
  else some (s.stack[s.sp.val - 1], { s with sp := ⟨s.sp.val - 1, by omega⟩ })

/-! ### Keypad (R42) -/

/-- key[k] <- pressed. -/
def State.setKey (s : State) (k : Fin 16) (pressed : Bool) : State :=
  { s with key := s.key.set k.val pressed }

/-- key[k] for a key number k, `none` when it names no key (R282). -/
def State.keyNumbered (s : State) (k : Byte) : Option Bool :=
  if h : k.toNat < 16 then some s.key[k.toNat] else none

/-- The lowest-numbered key that is down, if any (R291). -/
def State.lowestKeyDown (s : State) : Option (Fin 16) :=
  (List.finRange 16).find? (fun k => s.key[k.val])

/-! ### Events (R11, R13) -/

/-- emit e: append it to the transaction's event list. -/
def State.emit (s : State) (e : Event) : State := { s with events := s.events ++ [e] }

/-- A transaction starts with an empty event list. -/
def State.clearEvents (s : State) : State := { s with events := [] }

/-! ### Framebuffer (R43) -/

/-- fb[r][c]. -/
def State.pixel (s : State) (r : Fin 32) (c : Fin 64) : Bool := s.fb[r.val][c.val]

/-- fb[r][c] <- b. -/
def State.setPixel (s : State) (r : Fin 32) (c : Fin 64) (b : Bool) : State :=
  { s with fb := s.fb.set r.val (s.fb[r.val].set c.val b) }

/-- Every pixel <- 0. -/
def State.clearScreen (s : State) : State :=
  { s with fb := Vector.replicate 32 (Vector.replicate 64 false) }

/-- A pixel as the byte that stores it (R43). -/
def pixelByte (b : Bool) : Byte := if b then 1 else 0

/-- A copy of the framebuffer: 2048 bytes, each 0 or 1, row-major (R43, R150, R338). -/
def State.screen (s : State) : List Byte :=
  s.fb.toList.flatMap (fun row => row.toList.map pixelByte)

/-- draw_flag <- true, and a Draw with the framebuffer when a draw observer is registered: the end of
CLS and DRW (R170, R260, R265). -/
def State.announceDraw (s : State) : State :=
  let t := { s with drawFlag := true }
  if t.drawObs.isSome then t.emit (.draw t.screen Config.displayW Config.displayH) else t

/-! ### Faults (60_exceptions.md R321 to R326) -/

/-- The cause code of a fault kind (R323). -/
def FaultKind.code : FaultKind → Nat
  | .memBounds => 1
  | .stackOverflow => 2
  | .stackUnderflow => 3
  | .keyIndex => 4

/-- Enter the faulted state: pc keeps the fetch address A of the cycle, the record is stored and
Fault(record) is emitted; nothing else changes (R321, R322, R326). Nothing returns from it: there is
no handler and no return-from-trap (R325), and only Reset clears the record. -/
def State.enterFault (s : State) (kind : FaultKind) (a : Word) (op : Option Word) (info : Nat) :
    State :=
  { s with pc := a, fault := some ⟨kind, a, op, info⟩ }.emit (.fault ⟨kind, a, op, info⟩)

/-- raise kind(info) from the instruction i while it executes: pc = A + 2, so A is pc - 2 and the
advance is undone; op is i's opcode (R321, R322). -/
def State.raise (s : State) (i : Instr) (kind : FaultKind) (info : Nat) : State :=
  s.enterFault kind (s.pc - 2) (some (encode i)) info

/-! ### The parts of a cycle that are no instruction's (40_cycle_dispatch.md) -/

/-- Fetch: the big-endian word at pc, or the lowest of pc and pc + 1 that is 4096 or more (R83, R141). -/
def State.fetch (s : State) : Except Nat Word :=
  match firstOutside s.pc.toNat 2 with
  | some a => .error a
  | none => .ok (wordOfBytes (s.readByte s.pc.toNat) (s.readByte (s.pc.toNat + 1)))

/-- Start executing: the Cycle's random byte is at hand and pc <- (A + 2) mod 2^16 (R140, R142). -/
def State.advance (s : State) (r : RndArg) : State :=
  { s with rnd := r, cycles := s.cycles + 1, pc := s.pc + 2 }

/-- One timer counts down, and stays at 0 (R41, R146). -/
def countDown (t : Byte) : Byte := if t = 0 then 0 else t - 1

/-- The timer step: both timers count down, and Sound is emitted when ST goes from 1 to 0 and a sound
observer is registered (R146, R147). -/
def State.timerStep (s : State) : State :=
  let t := { s with dt := countDown s.dt, st := countDown s.st }
  if s.st = 1 ∧ s.soundObs.isSome then t.emit .sound else t

end Sys2Proof.Machine
end

