-- ==== Sys2Proof/Machine/Flags.lean ====
section
/-! DEFINITION. Every flag computation of the block (10_state.md R38): VF is the only flag, a byte that
is 0 or 1. DRW's collision flag is written while it draws (`State.flipPixel` in Machine/Draw.lean). -/

namespace Sys2Proof.Machine

/-- A condition as the value of the flag. -/
def flagByte (b : Bool) : Byte := if b then 1 else 0

/-- ADD: 1 iff the sum exceeds 255 (R218). -/
def carryFlag (a b : Byte) : Byte := flagByte (decide (a.toNat + b.toNat > 255))

/-- SUB and SUBN: 1 iff the minuend is at least the subtrahend, no borrow (R219, R221). -/
def noBorrowFlag (minuend subtrahend : Byte) : Byte :=
  flagByte (decide (minuend.toNat ≥ subtrahend.toNat))

/-- SHR: the pre-shift bit 0 (R220). -/
def lowBitFlag (a : Byte) : Byte := flagByte (a.getLsbD 0)

/-- SHL: the pre-shift bit 7 (R222). -/
def highBitFlag (a : Byte) : Byte := flagByte (a.getLsbD 7)

end Sys2Proof.Machine
end

