-- ==== Sys2Proof/Machine/Operands.lean ====
section
/-! DEFINITION. The operand forms that compute a value from a field (30_encoding.md R112, R113): the
zero-extended address, the random byte, the font address, the BCD digits and the register block. -/

namespace Sys2Proof.Machine

/-- zext_16(nnn) (R112). -/
def addrWord (nnn : Addr12) : Word := nnn.setWidth 16

/-- A byte as a 16-bit addend of I or pc (R241, R294). -/
def byteWord (b : Byte) : Word := b.setWidth 16

/-- The font address 0x050 + 5 * digit, of the full byte (R295). -/
def fontAddr (digit : Byte) : Word :=
  BitVec.ofNat 16 (Config.fontBase + Config.glyphBytes * digit.toNat)

/-- The three decimal digits of a byte, hundreds first (R296). -/
def bcdDigits (b : Byte) : List Byte :=
  [BitVec.ofNat 8 (b.toNat / 100), BitVec.ofNat 8 (b.toNat / 10 % 10), BitVec.ofNat 8 (b.toNat % 10)]

/-- V0..Vx as a list, inclusive of Vx (R297). -/
def State.regsUpTo (s : State) (x : Reg) : List Byte := s.v.toList.take (x.val + 1)

/-- V[k] <- the byte at base + k for every k in 0..x; registers above Vx keep their values (R298). -/
def State.loadRegs (s : State) (base : Nat) (x : Reg) : State :=
  { s with v := Vector.ofFn fun k => if k ≤ x then s.readByte (base + k.val) else s.reg k }

/-- The random byte of the Cycle (R246). -/
def State.randomByte (s : State) : Byte := s.rnd.byte

end Sys2Proof.Machine
end

