-- ==== Sys2Proof/Machine/Alu.lean ====
section
/-! DEFINITION. Register loads and the ALU (43_alu.md). Operands are read before any register is
written (R210), and a flag-writing instruction writes VF last (R211). -/

namespace Sys2Proof.Machine

/-- LD Vx, byte (R212). -/
def execLdByte (x : Reg) (kk : Byte) (s : State) : StepResult := .next (s.setReg x kk)

/-- ADD Vx, byte: no flag (R213). -/
def execAddByte (x : Reg) (kk : Byte) (s : State) : StepResult := .next (s.setReg x (s.reg x + kk))

/-- LD Vx, Vy (R214). -/
def execLdReg (x y : Reg) (s : State) : StepResult := .next (s.setReg x (s.reg y))

/-- OR Vx, Vy: VF is not a flag here (R215). -/
def execOrReg (x y : Reg) (s : State) : StepResult := .next (s.setReg x (s.reg x ||| s.reg y))

/-- AND Vx, Vy: VF is not a flag here (R216). -/
def execAndReg (x y : Reg) (s : State) : StepResult := .next (s.setReg x (s.reg x &&& s.reg y))

/-- XOR Vx, Vy: VF is not a flag here (R217). -/
def execXorReg (x y : Reg) (s : State) : StepResult := .next (s.setReg x (s.reg x ^^^ s.reg y))

/-- ADD Vx, Vy (R218). -/
def execAddReg (x y : Reg) (s : State) : StepResult :=
  .next (s.setRegFlag x (s.reg x + s.reg y) (carryFlag (s.reg x) (s.reg y)))

/-- SUB Vx, Vy (R219). -/
def execSubReg (x y : Reg) (s : State) : StepResult :=
  .next (s.setRegFlag x (s.reg x - s.reg y) (noBorrowFlag (s.reg x) (s.reg y)))

/-- SHR Vx: Vy is not read (R220). -/
def execShr (x _y : Reg) (s : State) : StepResult :=
  .next (s.setRegFlag x (s.reg x >>> 1) (lowBitFlag (s.reg x)))

/-- SUBN Vx, Vy (R221). -/
def execSubn (x y : Reg) (s : State) : StepResult :=
  .next (s.setRegFlag x (s.reg y - s.reg x) (noBorrowFlag (s.reg y) (s.reg x)))

/-- SHL Vx: Vy is not read (R222). -/
def execShl (x _y : Reg) (s : State) : StepResult :=
  .next (s.setRegFlag x (s.reg x <<< 1) (highBitFlag (s.reg x)))

end Sys2Proof.Machine
end

