-- ==== Sys2Proof/Machine/Draw.lean ====
section
/-! DEFINITION. Sprite draw (45_draw.md). -/

namespace Sys2Proof.Machine

/-- A set sprite bit on pixel (r, c): a set pixel is a collision and sets VF, and the pixel is XORed
with 1 (R260). -/
def State.flipPixel (s : State) (r : Fin 32) (c : Fin 64) : State :=
  (if s.pixel r c then s.setReg vf 1 else s).setPixel r c (!s.pixel r c)

/-- Row (py + row) mod 32 (R262). -/
def spriteRow (py : Byte) (row : Nat) : Fin 32 := Fin.ofNat 32 (py.toNat + row)

/-- Column (px + bit) mod 64 (R262). -/
def spriteColumn (px : Byte) (bit : Nat) : Fin 64 := Fin.ofNat 64 (px.toNat + bit)

/-- XOR one sprite byte onto row r; bit 7 is the pixel at column offset 0 (R260, R261). -/
def State.drawByte (s : State) (px : Byte) (r : Fin 32) (b : Byte) : State :=
  (List.range 8).foldl
    (fun t bit => if b.getLsbD (7 - bit) then t.flipPixel r (spriteColumn px bit) else t) s

/-- XOR n sprite bytes from address base onto the framebuffer at (px, py) (R260). -/
def State.drawRows (s : State) (px py : Byte) (base n : Nat) : State :=
  (List.range n).foldl (fun t row => t.drawByte px (spriteRow py row) (t.readByte (base + row))) s

/-- DRW Vx, Vy, nibble: every address is checked before any write, the coordinates are read before VF
is cleared, and the draw is announced whether or not a pixel changed (R260, R263). -/
def execDrw (x y : Reg) (n : Nibble) (s : State) : StepResult :=
  match firstOutside s.i.toNat n.toNat with
  | some a => .next (s.raise (.drw x y n) .memBounds a)
  | none =>
    .next ((s.setReg vf 0).drawRows (s.reg x) (s.reg y) s.i.toNat n.toNat).announceDraw

end Sys2Proof.Machine
end

