-- ==== Sys2Proof/Machine/FamilyF.lean ====
section
/-! DEFINITION. Family 0xF: timers, key wait, index, BCD and block transfer (47_family_f.md). -/

namespace Sys2Proof.Machine

/-- LD Vx, DT (R290). -/
def execLdVxDT (x : Reg) (s : State) : StepResult := .next (s.setReg x s.dt)

/-- LD Vx, K: the lowest key that is down, or pc <- (pc - 2) mod 2^16 so that the same instruction is
fetched again (R291). -/
def execLdVxK (x : Reg) (s : State) : StepResult :=
  match s.lowestKeyDown with
  | some k => .next (s.setReg x (BitVec.ofNat 8 k.val))
  | none => .next (s.setPc (s.pc - 2))

/-- LD DT, Vx (R292). -/
def execLdDTVx (x : Reg) (s : State) : StepResult := .next (s.setDt (s.reg x))

/-- LD ST, Vx (R293). -/
def execLdSTVx (x : Reg) (s : State) : StepResult := .next (s.setSt (s.reg x))

/-- ADD I, Vx: modulo 2^16, VF is not written (R294). -/
def execAddI (x : Reg) (s : State) : StepResult := .next (s.setI (s.i + byteWord (s.reg x)))

/-- LD F, Vx (R295). -/
def execLdF (x : Reg) (s : State) : StepResult := .next (s.setI (fontAddr (s.reg x)))

/-- LD B, Vx (R296). -/
def execLdB (x : Reg) (s : State) : StepResult :=
  match firstOutside s.i.toNat 3 with
  | some a => .next (s.raise (.ldB x) .memBounds a)
  | none => .next (s.storeBytes s.i.toNat (bcdDigits (s.reg x)))

/-- LD [I], Vx: I does not change (R297). -/
def execStoreRegs (x : Reg) (s : State) : StepResult :=
  match firstOutside s.i.toNat (x.val + 1) with
  | some a => .next (s.raise (.storeRegs x) .memBounds a)
  | none => .next (s.storeBytes s.i.toNat (s.regsUpTo x))

/-- LD Vx, [I]: I does not change (R298). -/
def execLoadRegs (x : Reg) (s : State) : StepResult :=
  match firstOutside s.i.toNat (x.val + 1) with
  | some a => .next (s.raise (.loadRegs x) .memBounds a)
  | none => .next (s.loadRegs s.i.toNat x)

end Sys2Proof.Machine
end

