-- ==== Sys2Proof/Machine/Flow.lean ====
section
/-! DEFINITION. Families 0x0 to 0x2 (41_family0_2_flow.md) and the unimplemented opcodes
(40_cycle_dispatch.md R145). On entry pc = A + 2 with A the address of the instruction (R142). -/

namespace Sys2Proof.Machine

/-- CLS (R170). -/
def execCls (_z : Nibble) (s : State) : StepResult := .next s.clearScreen.announceDraw

/-- RET: StackUnderflow when SP = 0, else pc <- the popped entry (R171). -/
def execRet (z : Nibble) (s : State) : StepResult :=
  match s.pop with
  | none => .next (s.raise (.ret z) .stackUnderflow s.sp.val)
  | some (target, t) => .next (t.setPc target)

/-- SYS addr: no effect and no Diag (R172). -/
def execSys (_nnn : Addr12) (s : State) : StepResult := .next s

/-- JP addr (R173). -/
def execJpAddr (nnn : Addr12) (s : State) : StepResult := .next (s.setPc (addrWord nnn))

/-- CALL addr: StackOverflow when SP = 16, else push A + 2 and jump (R174). -/
def execCallAddr (nnn : Addr12) (s : State) : StepResult :=
  match s.push s.pc with
  | none => .next (s.raise (.callAddr nnn) .stackOverflow s.sp.val)
  | some t => .next (t.setPc (addrWord nnn))

/-- An unimplemented opcode: Diag(op) and nothing else (R145, R329). -/
def execUnimplemented (op : Word) (s : State) : StepResult := .next (s.emit (.diag op))

end Sys2Proof.Machine
end

