-- ==== Sys2Proof/Machine/Index.lean ====
section
/-! DEFINITION. Index load, indexed jump and random byte (44_index_jump_random.md). -/

namespace Sys2Proof.Machine

/-- LD I, addr (R240). -/
def execLdI (nnn : Addr12) (s : State) : StepResult := .next (s.setI (addrWord nnn))

/-- JP V0, addr: the sum is not reduced to 12 bits (R241). -/
def execJpV0 (nnn : Addr12) (s : State) : StepResult :=
  .next (s.setPc (addrWord nnn + byteWord (s.reg 0)))

/-- RND Vx, byte: the Cycle's random byte AND kk (R246). -/
def execRnd (x : Reg) (kk : Byte) (s : State) : StepResult :=
  .next (s.setReg x (s.randomByte &&& kk))

end Sys2Proof.Machine
end

