-- ==== Sys2Proof/Machine/Keys.lean ====
section
/-! DEFINITION. The key skips (46_keys.md). A key number above 15 names no key and faults (R282). -/

namespace Sys2Proof.Machine

/-- SKP Vx: skip if key Vx is down (R280). -/
def execSkp (x : Reg) (s : State) : StepResult :=
  match s.keyNumbered (s.reg x) with
  | none => .next (s.raise (.skp x) .keyIndex (s.reg x).toNat)
  | some down => .next (s.skipIf down)

/-- SKNP Vx: skip if key Vx is up (R281). -/
def execSknp (x : Reg) (s : State) : StepResult :=
  match s.keyNumbered (s.reg x) with
  | none => .next (s.raise (.sknp x) .keyIndex (s.reg x).toNat)
  | some down => .next (s.skipIf (!down))

end Sys2Proof.Machine
end

