-- ==== Sys2Proof/Machine/Skips.lean ====
section
/-! DEFINITION. The register skips (42_skips.md). -/

namespace Sys2Proof.Machine

/-- SE Vx, byte (R191). -/
def execSeByte (x : Reg) (kk : Byte) (s : State) : StepResult :=
  .next (s.skipIf (s.reg x == kk))

/-- SNE Vx, byte (R192). -/
def execSneByte (x : Reg) (kk : Byte) (s : State) : StepResult :=
  .next (s.skipIf (s.reg x != kk))

/-- SE Vx, Vy; op[3:0] is ignored (R193, R119). -/
def execSeReg (x y : Reg) (_z : Nibble) (s : State) : StepResult :=
  .next (s.skipIf (s.reg x == s.reg y))

/-- SNE Vx, Vy; op[3:0] is ignored (R194, R119). -/
def execSneReg (x y : Reg) (_z : Nibble) (s : State) : StepResult :=
  .next (s.skipIf (s.reg x != s.reg y))

end Sys2Proof.Machine
end

