-- ==== Sys2Proof/Machine/Cycle.lean ====
section
/-! DEFINITION. One Cycle(rnd) (40_cycle_dispatch.md R140 to R149), and placing an opcode where the next
cycle fetches. -/

namespace Sys2Proof.Machine

/-- The rest of a cycle after execute: the timer step, unless the cycle faulted (R140, R321). -/
def State.afterExecute (t : State) : State := if t.fault.isNone then t.timerStep else t

/-- Cycle(rnd), appending its events to the transaction's list. A faulted block does nothing (R149); a
fetch fault ends the cycle before pc advances (R141, R83); else advance, execute, timer step. -/
def cycle (r : RndArg) (s : State) : StepResult :=
  if s.fault.isSome then .next s
  else
    match s.fetch with
    | .error a => .next (s.enterFault .memBounds s.pc none a)
    | .ok op =>
      match exec (decode op) (s.advance r) with
      | .next t => .next t.afterExecute
      | .fault f => .fault f
      | .refused f => .refused f

/-- Put the two bytes of an opcode where the next cycle fetches them: at pc, or at PROGRAM_BASE with pc
moved there when pc is no address an opcode can be fetched from; a faulted block is made to run again,
as otherwise it would fetch nothing. -/
def State.placeOpcode (s : State) (op : Word) : State :=
  let a := if s.pc.toNat + 1 < Config.memSize then s.pc.toNat else Config.programBase
  { s with fault := none, pc := BitVec.ofNat 16 a }.storeBytes a (bytesOfWord op)

end Sys2Proof.Machine
end

