-- ==== Sys2Proof/Machine/Transactions.lean ====
section
/-! DEFINITION. The host transactions (00_scope.md R10): Reset, LoadProgram, SetKey, GetScreen, Cycle,
RunFrame and the observer registrations; and what a running observer may call (40_cycle_dispatch.md R156). -/

namespace Sys2Proof.Machine

/-! ### Transactions that execute no cycle -/

/-- Reset(): every element of R30 at its reset value, but the observers as they were (R350). The
parameter FONTSET stays, and so do the model's own count of cycles and last random byte. -/
def State.resetTransaction (s : State) : State :=
  { State.construct s.fontset with
    drawObs := s.drawObs, soundObs := s.soundObs, rnd := s.rnd, cycles := s.cycles }

/-- What LoadProgram returns. -/
inductive LoadResult where
  | ok
  | sizeViolation
  deriving DecidableEq, Repr

/-- LoadProgram(bytes): the bytes stand at 0x200 and pc <- 0x200, or SizeViolation and no change when
they do not fit (R353, R354). -/
def State.loadProgram (s : State) (bytes : List Byte) : LoadResult × State :=
  if bytes.length + Config.programBase ≤ Config.memSize then
    (.ok, (s.storeBytes Config.programBase bytes).setPc (BitVec.ofNat 16 Config.programBase))
  else (.sizeViolation, s)

/-- SetKey(index, pressed): nothing when index is outside 0..15 (R336). -/
def State.setKeyTransaction (s : State) (index : Int) (pressed : Bool) : State :=
  if h : 0 ≤ index ∧ index < 16 then s.setKey ⟨index.toNat, by omega⟩ pressed else s

/-- SetDrawCallback(opt) (R155). -/
def State.setDrawCallback (s : State) (opt : Option Observer) : State := { s with drawObs := opt }

/-- SetSoundCallback(opt) (R155). -/
def State.setSoundCallback (s : State) (opt : Option Observer) : State := { s with soundObs := opt }

/-! ### What a running observer calls -/

/-- A call that an observer makes while it runs. -/
inductive ObserverCall where
  | getScreen
  | setKey (index : Int) (pressed : Bool)
  | reset
  | loadProgram
  | cycle
  | runFrame
  | setDrawCallback
  | setSoundCallback
  deriving DecidableEq, Repr

/-- An observer's call, on the state at the end of the current cycle: SetKey and GetScreen have the
effect they have when called then, and every other call is refused (R156, R366, U1). -/
def observerCall (q : ObserverCall) (s : State) : StepResult :=
  match q with
  | .getScreen => .next s
  | .setKey index pressed => .next (s.setKeyTransaction index pressed)
  | .reset => .refused .reentrantCall
  | .loadProgram => .refused .reentrantCall
  | .cycle => .refused .reentrantCall
  | .runFrame => .refused .reentrantCall
  | .setDrawCallback => .refused .reentrantCall
  | .setSoundCallback => .refused .reentrantCall

/-- The calls of an observer, one after another. -/
def observerCalls : List ObserverCall → State → StepResult
  | [], s => .next s
  | q :: rest, s =>
    match observerCall q s with
    | .next t => observerCalls rest t
    | .fault f => .fault f
    | .refused f => .refused f

/-- Draw and Sound are the events an observer receives (R11). -/
def Event.reachesObserver : Event → Bool
  | .draw _ _ _ => true
  | .sound => true
  | .diag _ => false
  | .fault _ => false

/-- A cycle from s to t emitted an event that an observer receives. -/
def observerRan (s t : State) : Bool :=
  (t.events.drop s.events.length).any Event.reachesObserver

/-- A cycle and, when an observer ran in it, the calls that observer makes; without one there is nobody
to make them (R156). -/
def observedCycle (r : RndArg) (calls : List ObserverCall) (s : State) : StepResult :=
  match cycle r s with
  | .next t => if observerRan s t then observerCalls calls t else .next t
  | .fault f => .fault f
  | .refused f => .refused f

/-! ### RunFrame -/

/-- The random byte of the next cycle of a RunFrame: the head of the bytes that are left, or a free
byte. -/
def nextRnd (rnds : List Byte) (s : State) : RndArg :=
  match rnds.head? with
  | some b => .given b
  | none => .free s.cycles

/-- The cycles of a RunFrame in sequence; cycle k takes the k-th random byte and the k-th list of
observer calls. -/
def runCycles : Nat → List Byte → List (List ObserverCall) → State → StepResult
  | 0, _, _, s => .next s
  | k + 1, rnds, calls, s =>
    match observedCycle (nextRnd rnds s) (calls.headD []) s with
    | .next t => runCycles k rnds.tail calls.tail t
    | .fault f => .fault f
    | .refused f => .refused f

/-- RunFrame(count, rnds): count cycles, none when count ≤ 0; it returns the events of all of them in
order (R152, R153, R154). -/
def runFrame (count : Int) (rnds : List Byte) (calls : List (List ObserverCall)) (s : State) :
    StepResult :=
  runCycles count.toNat rnds calls s.clearEvents

/-! ### The interface -/

/-- The host transactions of R10. Cycle and RunFrame also say what the observers call while they run. -/
inductive Transaction where
  | reset
  | loadProgram (bytes : List Byte)
  | setKey (index : Int) (pressed : Bool)
  | getScreen
  | cycle (rnd : RndArg) (calls : List ObserverCall)
  | runFrame (count : Int) (rnds : List Byte) (calls : List (List ObserverCall))
  | setDrawCallback (opt : Option Observer)
  | setSoundCallback (opt : Option Observer)
  deriving DecidableEq, Repr

/-- What a transaction returns beside its events, which stand in `State.events`. -/
inductive Reply where
  | none
  | load (result : LoadResult)
  | screen (bytes : List Byte)
  deriving DecidableEq, Repr

/-- The result of a transaction that returns only events. -/
def withoutReply : StepResult → Host.Outcome (State × Reply) Fault Refusal
  | .next t => .next (t, .none)
  | .fault f => .fault f
  | .refused f => .refused f

/-- One host transaction, called between transactions; its event list starts empty (R10, R89). -/
def transact (q : Transaction) (s : State) : Host.Outcome (State × Reply) Fault Refusal :=
  match q with
  | .reset => .next (s.clearEvents.resetTransaction, .none)
  | .loadProgram bytes =>
    .next ((s.clearEvents.loadProgram bytes).2, .load (s.clearEvents.loadProgram bytes).1)
  | .setKey index pressed => .next (s.clearEvents.setKeyTransaction index pressed, .none)
  | .getScreen => .next (s.clearEvents, .screen s.screen)
  | .cycle r calls => withoutReply (observedCycle r calls s.clearEvents)
  | .runFrame count rnds calls => withoutReply (Machine.runFrame count rnds calls s)
  | .setDrawCallback opt => .next (s.clearEvents.setDrawCallback opt, .none)
  | .setSoundCallback opt => .next (s.clearEvents.setSoundCallback opt, .none)

end Sys2Proof.Machine
end

