-- ==== Sys2Proof/Machine/Step.lean ====
section
/-! DEFINITION. The step: one Cycle transaction whose random byte is free (00_scope.md R10, R246). -/

namespace Sys2Proof.Machine

/-- One step is the transaction Cycle(rnd) with a free random byte. -/
def step (s : State) : Host.Outcome State Fault Refusal := cycle (.free s.cycles) s.clearEvents

/-- s with the opcode w (its bits numbered as the opcode table numbers them) where step fetches. -/
def State.withFetchWord (s : State) (nbits w : Nat) : State := s.placeOpcode (tableWord nbits w)

end Sys2Proof.Machine
end

