-- ==== Sys2Proof/Safety.lean ====
section
/-! DEFINITION. What statements about whole runs speak of: the running block, the canonical form of
memory, and the bound on the program counter and the return addresses. -/

namespace Sys2Proof.Machine

/-- The block runs: it holds no fault record (R47). -/
def State.running (s : State) : Prop := s.fault = none

/-- Memory is in its canonical form: rising addresses below 4096, no entry equal to its reset contents. -/
def State.memCanonical (s : State) : Prop := Memory.wf s.fontset s.mem

/-- pc is at most 0x10FE, the highest target of JP V0, addr (R241), and every stack entry is at most
0x1000, the highest A + 2 a CALL can push (R174): no pc arithmetic of a cycle reaches 2^16 (R37). -/
def State.pcBounded (s : State) : Prop :=
  s.pc.toNat ≤ 0x10FE ∧ ∀ k : Fin 16, s.stack[k.val].toNat ≤ 0x1000

/-- Every element of the block (R30) is the same in s and t; the model's own rnd, cycles and
events are left aside. -/
def State.sameElements (s t : State) : Prop :=
  t = { s with rnd := t.rnd, cycles := t.cycles, events := t.events }

/-- Pixel (r, c) lies under a set bit of the sprite of n bytes at base, drawn at (px, py): bit 7 - bit of
byte row stands at column (px + bit) mod 64 of row (py + row) mod 32 (R260, R261, R262). -/
abbrev spriteCovers (s : State) (px py : Byte) (base n : Nat) (r : Fin 32) (c : Fin 64) : Prop :=
  ∃ row < n, ∃ bit < 8, (s.readByte (base + row)).getLsbD (7 - bit) = true ∧
    r = spriteRow py row ∧ c = spriteColumn px bit

end Sys2Proof.Machine
end

