-- ==== Sys2Proof/Certificates/Slice0/Obligations.lean ====
section
/-! DEFINITION. The statements for the provers: what the rules of spec/ say, over the model's own names. A
statement about an instruction is about exec, which is given the state of a cycle after the advance of
40_cycle_dispatch.md R142: pc = A + 2, with A the address of the instruction. The selector values and the
places of the fields x, y, kk and n are the spec's own assignment (30_encoding.md, 92_eei_decisions.md D12;
log entry 1): what a statement says of an encoding rests on it. -/

namespace Sys2Proof.Claims
open Sys2Proof.Machine

/-- Executing i in a cycle with the random byte r: i runs with pc advanced past it and r at hand, and the
timer step follows unless the cycle faulted (R140, R142). The fields rnd and cycles are the model's own (log
entry 3). -/
def executes (i : Instr) (r : RndArg) (s : State) : StepResult :=
  match exec i { s with rnd := r, cycles := s.cycles + 1, pc := s.pc + 2 } with
  | .next t => .next (if t.fault = none then t.timerStep else t)
  | .fault f => .fault f
  | .refused f => .refused f

/-- One Cycle for each byte of the list, in order (R152). -/
def cyclesWith : List Byte → State → StepResult
  | [], s => .next s
  | b :: rest, s =>
    match cycle (.given b) s with
    | .next t => cyclesWith rest t
    | .fault f => .fault f
    | .refused f => .refused f

/-- An event that an observer receives: Draw or Sound (R11, R156). -/
def Observed (e : Event) : Prop := (∃ shot w h, e = .draw shot w h) ∨ e = .sound

/-- Every word that the mask and match of an R121 row select decodes to what the row builds from it (the
spec's own assignment, D12; log entry 1). -/
def Decodes (mask pattern : Word) (build : Word → Instr) : Prop :=
  ∀ op : Word, op &&& mask = pattern → decode op = build op

/-- The state after i raises a fault (R321, R322): pc is A again, the record is stored and emitted, and
every other element is as before. -/
def faulted (s : State) (i : Instr) (kind : FaultKind) (info : Nat) : State :=
  { s with
    pc := s.pc - 2
    fault := some ⟨kind, s.pc - 2, some (encode i), info⟩
    events := s.events ++ [.fault ⟨kind, s.pc - 2, some (encode i), info⟩] }

/-- i completes, V[x] is w afterwards, and nothing else changes. -/
def WritesReg (i : Instr) (s : State) (x : Reg) (w : Byte) : Prop :=
  ∃ t, exec i s = .next t ∧ t.reg x = w ∧ (∀ k, k ≠ x → t.reg k = s.reg k) ∧ t = { s with v := t.v }

/-- i completes, VF is the flag f afterwards, V[x] is r unless x is 0xF, and nothing else changes. -/
def WritesRegAndFlag (i : Instr) (s : State) (x : Reg) (r f : Byte) : Prop :=
  ∃ t, exec i s = .next t ∧ t.reg vf = f ∧ (x ≠ vf → t.reg x = r) ∧
    (∀ k, k ≠ x → k ≠ vf → t.reg k = s.reg k) ∧ t = { s with v := t.v }

/-- i completes, and skips the two bytes at pc exactly when the condition holds. -/
def SkipsWhen (i : Instr) (s : State) (cond : Prop) : Prop :=
  (cond → exec i s = .next { s with pc := s.pc + 2 }) ∧ (¬cond → exec i s = .next s)

/-- The lowest address of base .. base + n - 1 that is 4096 or more, for a block that has one (R324). -/
def lowestOutside (base : Nat) : Nat := if base < 4096 then 4096 else base

/-- The block base .. base + n - 1 has no address of 4096 or more (R81, R82). -/
def Inside (base n : Nat) : Prop := n = 0 ∨ base + n ≤ 4096

/-- A set bit of the sprite of n bytes at base falls on pixel (r, c) when drawn at (px, py): bit 7 - bit of
the byte of a row is the pixel at column offset bit, and both coordinates wrap (R260, R261, R262). -/
def SpriteBit (s : State) (px py : Byte) (base n : Nat) (r : Fin 32) (c : Fin 64) : Prop :=
  ∃ row bit : Nat, row < n ∧ bit < 8 ∧ (s.readByte (base + row)).getLsbD (7 - bit) = true ∧
    r.val = (py.toNat + row) % 32 ∧ c.val = (px.toNat + bit) % 64

/-- A row of the opcode map: mask, match, and the instruction with the fields of R112. -/
structure OpcodeRow where
  mask : Word
  pattern : Word
  build : Word → Instr

/-- The 36 rows of R121, in its order. -/
def opcodeMap : List OpcodeRow := [
  ⟨0xF0FF, 0x00E0, fun op => .cls (opHigh op)⟩,
  ⟨0xF0FF, 0x00EE, fun op => .ret (opHigh op)⟩,
  ⟨0xF000, 0x0000, fun op => .sys (opNNN op)⟩,
  ⟨0xF000, 0x1000, fun op => .jpAddr (opNNN op)⟩,
  ⟨0xF000, 0x2000, fun op => .callAddr (opNNN op)⟩,
  ⟨0xF000, 0x3000, fun op => .seByte (opX op) (opKK op)⟩,
  ⟨0xF000, 0x4000, fun op => .sneByte (opX op) (opKK op)⟩,
  ⟨0xF000, 0x5000, fun op => .seReg (opX op) (opY op) (opN op)⟩,
  ⟨0xF000, 0x6000, fun op => .ldByte (opX op) (opKK op)⟩,
  ⟨0xF000, 0x7000, fun op => .addByte (opX op) (opKK op)⟩,
  ⟨0xF00F, 0x8000, fun op => .ldReg (opX op) (opY op)⟩,
  ⟨0xF00F, 0x8001, fun op => .orReg (opX op) (opY op)⟩,
  ⟨0xF00F, 0x8002, fun op => .andReg (opX op) (opY op)⟩,
  ⟨0xF00F, 0x8003, fun op => .xorReg (opX op) (opY op)⟩,
  ⟨0xF00F, 0x8004, fun op => .addReg (opX op) (opY op)⟩,
  ⟨0xF00F, 0x8005, fun op => .subReg (opX op) (opY op)⟩,
  ⟨0xF00F, 0x8006, fun op => .shr (opX op) (opY op)⟩,
  ⟨0xF00F, 0x8007, fun op => .subn (opX op) (opY op)⟩,
  ⟨0xF00F, 0x800E, fun op => .shl (opX op) (opY op)⟩,
  ⟨0xF000, 0x9000, fun op => .sneReg (opX op) (opY op) (opN op)⟩,
  ⟨0xF000, 0xA000, fun op => .ldI (opNNN op)⟩,
  ⟨0xF000, 0xB000, fun op => .jpV0 (opNNN op)⟩,
  ⟨0xF000, 0xC000, fun op => .rnd (opX op) (opKK op)⟩,
  ⟨0xF000, 0xD000, fun op => .drw (opX op) (opY op) (opN op)⟩,
  ⟨0xF0FF, 0xE09E, fun op => .skp (opX op)⟩,
  ⟨0xF0FF, 0xE0A1, fun op => .sknp (opX op)⟩,
  ⟨0xF0FF, 0xF007, fun op => .ldVxDT (opX op)⟩,
  ⟨0xF0FF, 0xF00A, fun op => .ldVxK (opX op)⟩,
  ⟨0xF0FF, 0xF015, fun op => .ldDTVx (opX op)⟩,
  ⟨0xF0FF, 0xF018, fun op => .ldSTVx (opX op)⟩,
  ⟨0xF0FF, 0xF01E, fun op => .addI (opX op)⟩,
  ⟨0xF0FF, 0xF029, fun op => .ldF (opX op)⟩,
  ⟨0xF0FF, 0xF033, fun op => .ldB (opX op)⟩,
  ⟨0xF0FF, 0xF055, fun op => .storeRegs (opX op)⟩,
  ⟨0xF0FF, 0xF065, fun op => .loadRegs (opX op)⟩,
  ⟨0x0000, 0x0000, fun op => .unimplemented op⟩]

/-- The row of the map that op matches first. -/
def firstRow (op : Word) : Option OpcodeRow :=
  opcodeMap.find? (fun row => op &&& row.mask == row.pattern)

/-- The fault table of R323 for an executing instruction: the kind and the info it raises, if any. -/
def raises (i : Instr) (s : State) : Option (FaultKind × Nat) :=
  match i with
  | .callAddr _ => if s.sp.val = 16 then some (.stackOverflow, 16) else none
  | .ret _ => if s.sp.val = 0 then some (.stackUnderflow, 0) else none
  | .skp x => if (s.reg x).toNat > 15 then some (.keyIndex, (s.reg x).toNat) else none
  | .sknp x => if (s.reg x).toNat > 15 then some (.keyIndex, (s.reg x).toNat) else none
  | .drw _ _ n =>
    if n.toNat ≠ 0 ∧ s.i.toNat + n.toNat > 4096 then some (.memBounds, lowestOutside s.i.toNat)
    else none
  | .ldB _ =>
    if s.i.toNat + 3 > 4096 then some (.memBounds, lowestOutside s.i.toNat) else none
  | .storeRegs x =>
    if s.i.toNat + (x.val + 1) > 4096 then some (.memBounds, lowestOutside s.i.toNat) else none
  | .loadRegs x =>
    if s.i.toNat + (x.val + 1) > 4096 then some (.memBounds, lowestOutside s.i.toNat) else none
  | _ => none

/-- CLS and DRW, the instructions that change the framebuffer (R265). -/
def draws : Instr → Bool
  | .cls _ => true
  | .drw _ _ _ => true
  | _ => false

/-- LD B, Vx and LD [I], Vx, the instructions that write memory (R80). -/
def stores : Instr → Bool
  | .ldB _ => true
  | .storeRegs _ => true
  | _ => false

/-- The value DT holds when the timer step begins: LD DT, Vx writes it, nothing else does (R41, R292). -/
def dtBeforeTick (i : Instr) (s : State) : Byte :=
  match i with
  | .ldDTVx x => s.reg x
  | _ => s.dt

/-- The value ST holds when the timer step begins: LD ST, Vx writes it, nothing else does (R41, R293). -/
def stBeforeTick (i : Instr) (s : State) : Byte :=
  match i with
  | .ldSTVx x => s.reg x
  | _ => s.st

end Sys2Proof.Claims

open Sys2Proof Sys2Proof.Machine Sys2Proof.Claims

/-! ### Encoding -/

/-- Decoding the opcode of a well-formed instruction gives the instruction back, every operand at every
value (R111, R112, R121). Selectors and field places are the spec's own assignment (D12; log entry 1), and
the ignored nibbles are operands by the model's choice (log entry 12). -/
def Obligations.EncodeThenDecode : Prop :=
  ∀ i : Instr, i.wellFormed = true → decode (encode i) = i

/-- Every opcode decodes to a well-formed instruction: decoding is total (R124). That it encodes to the
opcode again, so that no bit is dropped, rests on the model's choice to keep the ignored nibbles as operands
(log entry 12). -/
def Obligations.DecodeThenEncode : Prop :=
  ∀ op : Word, (decode op).wellFormed = true ∧ encode (decode op) = op

/-- The dispatcher's decoding is the opcode map's: the first row of R121 that matches, read in order, with
the fields of R112 (R121, R124). Selectors and field places are the spec's own assignment (D12; log entry
1), and the ignored nibbles are operands by the model's choice (log entry 12). -/
def Obligations.DecodeIsFirstMatchingRow : Prop :=
  ∀ op : Word, ∃ row, firstRow op = some row ∧ decode op = row.build op

/-- The words that no row matches are those R122 lists, by family and selector. -/
def Obligations.UnimplementedWordsAreTheUnlistedOnes : Prop :=
  ∀ op : Word, decode op = .unimplemented op ↔
    (opFamily op = 0x8 ∧ opN op ∈ [0x8, 0x9, 0xA, 0xB, 0xC, 0xD, 0xF]) ∨
    (opFamily op = 0xE ∧ opKK op ∉ [0x9E, 0xA1]) ∨
    (opFamily op = 0xF ∧ opKK op ∉ [0x07, 0x0A, 0x15, 0x18, 0x1E, 0x29, 0x33, 0x55, 0x65])

/-- Words of every family, written out from the map of R121 (the spec's own assignment, D12; log entry 1;
the ignored nibbles are operands by the model's choice, log entry 12). -/
def Obligations.SampleWordsDecode : Prop :=
  decode 0x05E0 = .cls 5 ∧ decode 0x00EE = .ret 0 ∧ decode 0x0123 = .sys 0x123 ∧
  decode 0x1ABC = .jpAddr 0xABC ∧ decode 0x2210 = .callAddr 0x210 ∧ decode 0x3F01 = .seByte 0xF 1 ∧
  decode 0x4305 = .sneByte 3 5 ∧ decode 0x5127 = .seReg 1 2 7 ∧ decode 0x6AFF = .ldByte 0xA 0xFF ∧
  decode 0x7F01 = .addByte 0xF 1 ∧
  decode 0x8F15 = .subReg 0xF 1 ∧ decode 0x8018 = .unimplemented 0x8018 ∧ decode 0x912F = .sneReg 1 2 0xF ∧
  decode 0xA300 = .ldI 0x300 ∧ decode 0xB300 = .jpV0 0x300 ∧ decode 0xC00F = .rnd 0 0xF ∧
  decode 0xD125 = .drw 1 2 5 ∧
  decode 0xE0A1 = .sknp 0 ∧ decode 0xF265 = .loadRegs 2

/-! ### The cycle -/

/-- A cycle of a running block whose opcode can be fetched executes the decoded instruction (R140, R142,
R143, R144): Cycle(rnd) with the random byte rnd it was called with, whichever that is (R10, R246), and step
with a free byte. A transaction starts with an empty event list. The fields rnd, cycles and events are the
model's own (log entries 3 and 6). -/
def Obligations.StepRunsTheDecodedInstruction : Prop :=
  ∀ (s : State) (i : Instr) (r : RndArg), s.fault = none → s.pc.toNat ≤ 0xFFE → i.wellFormed = true →
    decode (wordOfBytes (s.readByte s.pc.toNat) (s.readByte (s.pc.toNat + 1))) = i →
    step s = executes i (.free s.cycles) { s with events := [] } ∧
    cycle r s = executes i r s ∧
    ∃ t, executes i r { s with events := [] } = .next t ∧ transact (.cycle r []) s = .next (t, .none)

/-- Fetch reads the two bytes at pc, the first as op[15:8], and at pc ≥ 0xFFF the cycle faults with pc
unchanged and the first address that is 4096 or more as info (R83). -/
def Obligations.FetchReadsTwoBytesOrFaults : Prop :=
  (∀ s : State, s.pc.toNat ≤ 0xFFE →
    ∃ op, s.fetch = .ok op ∧ op.extractLsb' 8 8 = s.readByte s.pc.toNat ∧
      op.extractLsb' 0 8 = s.readByte (s.pc.toNat + 1)) ∧
  (∀ s : State, s.fault = none → 0xFFF ≤ s.pc.toNat →
    ∃ info, info = (if s.pc.toNat = 0xFFF then s.pc.toNat + 1 else s.pc.toNat) ∧
      step s = .next { s with
        fault := some ⟨.memBounds, s.pc, none, info⟩
        events := [.fault ⟨.memBounds, s.pc, none, info⟩] })

/-- A faulted block does nothing in a cycle: no state element changes and no event is emitted (R149). -/
def Obligations.FaultedBlockDoesNothing : Prop :=
  ∀ s : State, s.fault ≠ none →
    step s = .next { s with events := [] } ∧ ∀ r, cycle r s = .next s

/-- Every step answers a next state: no opcode and no state stops the machine (R122, R144, R151). -/
def Obligations.StepAlwaysAnswersNext : Prop :=
  ∀ s : State, ∃ t, step s = .next t

/-- The timer step: a timer at 0 stays 0, another counts down by one, Sound is emitted exactly when ST goes
from 1 to 0 and a sound observer is registered, and nothing else changes (R146, R147). -/
def Obligations.TimerStepCountsDown : Prop :=
  ∀ s : State, ∃ dt st : Byte, dt.toNat = s.dt.toNat - 1 ∧ st.toNat = s.st.toNat - 1 ∧
    s.timerStep = { s with
      dt := dt, st := st,
      events := s.events ++ (if s.st = 1 ∧ s.soundObs ≠ none then [.sound] else []) }

/-- The timers over a whole cycle that did not fault: each counts down by one from the value it has after
execute, which only LD DT, Vx or LD ST, Vx changes, and Sound is emitted exactly when ST goes from 1 to 0
with a sound observer registered (R146, R147, R362). -/
def Obligations.CycleTicksBothTimers : Prop :=
  ∀ (s t : State) (op : Word), s.fault = none → s.fetch = .ok op → step s = .next t →
    t.fault = none →
    t.dt.toNat = (dtBeforeTick (decode op) s).toNat - 1 ∧
    t.st.toNat = (stBeforeTick (decode op) s).toNat - 1 ∧
    (Event.sound ∈ t.events ↔ stBeforeTick (decode op) s = 1 ∧ s.soundObs ≠ none)

/-- The events of a cycle: one that does not fault emits at most one Draw (from CLS or DRW) or Diag (from an
unimplemented opcode) and then at most one Sound; one that faults emits its Fault alone (R148). -/
def Obligations.CycleEventOrder : Prop :=
  (∀ (s t : State) (op : Word), s.fault = none → s.fetch = .ok op → step s = .next t →
    t.fault = none →
    ∃ first last : List Event, t.events = first ++ last ∧
      (first = [] ∨ (draws (decode op) = true ∧ first = [.draw t.screen 64 32]) ∨
        (decode op = .unimplemented op ∧ first = [.diag op])) ∧
      (last = [] ∨ last = [.sound])) ∧
  (∀ (s t : State) (r : FaultRecord), s.fault = none → step s = .next t → t.fault = some r →
    t.events = [.fault r])

/-! ### Invariants and whole-machine rules -/

/-- Every step keeps memory in its canonical form, the model's representation (log entry 13): rising
addresses below 4096, no entry equal to its reset contents. -/
def Obligations.StepKeepsMemoryCanonical : Prop :=
  ∀ s t : State, s.memCanonical → step s = .next t → t.memCanonical

/-- Every step keeps pc at most 0x10FE and every stack entry at most 0x1000, so that no pc arithmetic of a
cycle reaches 2^16 (R37, R174, R241). -/
def Obligations.StepKeepsPcBounded : Prop :=
  ∀ s t : State, s.pcBounded → step s = .next t → t.pcBounded

/-- Both invariants hold at State.reset, and right after construction with any FONTSET (R350, R351). The
canonical form of memory is the model's representation (log entry 13), and FONTSET its field (log entry 2). -/
def Obligations.ConstructionMeetsInvariants : Prop :=
  State.reset.memCanonical ∧ State.reset.pcBounded ∧ ∀ fontset, (State.construct fontset).memCanonical ∧ (State.construct fontset).pcBounded

/-- Faults are precise and atomic: a faulting step changes no element but fault, pc keeps the fetch address,
and no event but Fault is emitted (R322). The record holds the fetch address and the fetched opcode, none
for a fetch fault. -/
def Obligations.FaultingStepChangesOnlyFault : Prop :=
  ∀ (s t : State) (r : FaultRecord), s.fault = none → step s = .next t → t.fault = some r →
    State.sameElements { s with fault := some r } t ∧ t.events = [.fault r] ∧ r.addr = s.pc ∧
    r.op = (if s.pc.toNat ≤ 0xFFE
      then some (wordOfBytes (s.readByte s.pc.toNat) (s.readByte (s.pc.toNat + 1))) else none)

/-- The fault table: an instruction raises exactly what R323 lists for it, no other instruction raises
anything, and a fetch at 0xFFF or above raises MemBounds with its lowest offending address; with the cause
codes of R323. -/
def Obligations.ExecFaultsAsTabled : Prop :=
  (∀ (i : Instr) (s : State), s.fault = none → ∃ t, exec i s = .next t ∧
    match raises i s with
    | none => t.fault = none
    | some (kind, info) => t = faulted s i kind info) ∧
  (∀ s : State, s.fault = none → 0xFFF ≤ s.pc.toNat → ∃ t, step s = .next t ∧
    t.fault = some ⟨.memBounds, s.pc, none, max s.pc.toNat 4096⟩) ∧
  (FaultKind.code .memBounds = 1 ∧ FaultKind.code .stackOverflow = 2 ∧
    FaultKind.code .stackUnderflow = 3 ∧ FaultKind.code .keyIndex = 4)

/-- Only Reset leaves the faulted state: every other transaction, whatever observers call in it, keeps the
record (R321, R325). -/
def Obligations.OnlyResetClearsAFault : Prop :=
  (∀ (q : Transaction) (s t : State) (reply : Reply) (r : FaultRecord), q ≠ .reset →
    s.fault = some r → transact q s = .next (t, reply) → t.fault = some r) ∧
  (∀ s : State, ∃ t, transact .reset s = .next (t, .none) ∧ t.fault = none)

/-- Only CLS and DRW change the framebuffer or set the draw flag, and no step clears the flag (R45, R265). -/
def Obligations.OnlyClsAndDrwTouchTheScreen : Prop :=
  ∀ s t : State, step s = .next t →
    (t.fb ≠ s.fb ∨ t.drawFlag ≠ s.drawFlag →
      t.drawFlag = true ∧ ∃ op, s.fetch = .ok op ∧ draws (decode op) = true)

/-- No step changes a key or an observer: they are the host's (R42, R46). That FONTSET stays is the model's
clause: it carries this parameter of R8 (a) as a field of State (log entry 2). -/
def Obligations.StepKeepsHostState : Prop :=
  ∀ s t : State, step s = .next t →
    t.key = s.key ∧ t.drawObs = s.drawObs ∧ t.soundObs = s.soundObs ∧ t.fontset = s.fontset

/-- Only LD B, Vx and LD [I], Vx write memory (R80): a step that changes a byte executes one of them, and
the byte is in the block that I points at. -/
def Obligations.OnlyStoresWriteMemory : Prop :=
  ∀ (s t : State) (a : Nat), step s = .next t → t.readByte a ≠ s.readByte a →
    s.i.toNat ≤ a ∧ a < s.i.toNat + 16 ∧ a < 4096 ∧
      ∃ op, s.fetch = .ok op ∧ stores (decode op) = true

/-- Only CALL writes a stack entry, and only CALL and RET move SP (R40). -/
def Obligations.OnlyCallAndRetTouchTheStack : Prop :=
  ∀ s t : State, step s = .next t →
    (t.stack ≠ s.stack → ∃ op nnn, s.fetch = .ok op ∧ decode op = .callAddr nnn) ∧
    (t.sp ≠ s.sp → ∃ op, s.fetch = .ok op ∧
      ((∃ nnn, decode op = .callAddr nnn) ∨ ∃ z, decode op = .ret z))

/-! ### Families 0x0 to 0x2 and the unimplemented opcodes -/

/-- CLS (R170). -/
def Obligations.ClsClearsTheScreen : Prop :=
  Decodes 0xF0FF 0x00E0 (fun op => .cls (opHigh op)) ∧
  ∀ (z : Nibble) (s : State), ∃ t, exec (.cls z) s = .next t ∧ (∀ r c, t.pixel r c = false) ∧
    t = { s with
      fb := t.fb
      drawFlag := true
      events := if s.drawObs = none then s.events
        else s.events ++ [.draw (List.replicate 2048 0) 64 32] }

/-- RET: the popped entry is the new pc and stays in the stack; with SP = 0, StackUnderflow (R171). -/
def Obligations.RetPopsTheReturnAddress : Prop :=
  Decodes 0xF0FF 0x00EE (fun op => .ret (opHigh op)) ∧
  ∀ (z : Nibble) (s : State),
    (∀ _ : s.sp.val ≠ 0, exec (.ret z) s =
      .next { s with sp := ⟨s.sp.val - 1, by omega⟩, pc := s.stack[s.sp.val - 1] }) ∧
    (s.sp.val = 0 → exec (.ret z) s = .next (faulted s (.ret z) .stackUnderflow 0))

/-- SYS: every family-0x0 word that is neither CLS nor RET, no effect and no event (R172). -/
def Obligations.SysIsIgnored : Prop :=
  (∀ op : Word, op &&& 0xF000 = 0x0000 → op &&& 0xF0FF ≠ 0x00E0 → op &&& 0xF0FF ≠ 0x00EE →
    decode op = .sys (opNNN op)) ∧
  ∀ (nnn : Addr12) (s : State), exec (.sys nnn) s = .next s

/-- An unimplemented opcode emits Diag(op) and changes no element (R145). -/
def Obligations.UnimplementedEmitsDiag : Prop :=
  ∀ (op : Word) (s : State),
    exec (.unimplemented op) s = .next { s with events := s.events ++ [.diag op] }

/-- JP addr, and JP V0, addr with the sum not masked (R173, R241). -/
def Obligations.JumpsSetPc : Prop :=
  Decodes 0xF000 0x1000 (fun op => .jpAddr (opNNN op)) ∧
  Decodes 0xF000 0xB000 (fun op => .jpV0 (opNNN op)) ∧
  ∀ (nnn : Addr12) (s : State),
    (∃ pc : Word, pc.toNat = nnn.toNat ∧ exec (.jpAddr nnn) s = .next { s with pc := pc }) ∧
    (∃ pc : Word, pc.toNat = nnn.toNat + (s.reg 0).toNat ∧
      exec (.jpV0 nnn) s = .next { s with pc := pc })

/-- CALL addr: stack[SP] is A + 2, SP counts up and pc is nnn; with SP = 16, StackOverflow (R174). -/
def Obligations.CallPushesTheReturnAddress : Prop :=
  Decodes 0xF000 0x2000 (fun op => .callAddr (opNNN op)) ∧
  ∀ (nnn : Addr12) (s : State),
    (s.sp.val < 16 → ∃ t, exec (.callAddr nnn) s = .next t ∧
      t.sp.val = s.sp.val + 1 ∧ t.pc.toNat = nnn.toNat ∧
      (∀ k : Fin 16, t.stack[k.val] = if k.val = s.sp.val then s.pc else s.stack[k.val]) ∧
      t = { s with stack := t.stack, sp := t.sp, pc := t.pc }) ∧
    (s.sp.val = 16 → exec (.callAddr nnn) s = .next (faulted s (.callAddr nnn) .stackOverflow 16))

/-- A RET that finds the stack as a CALL left it returns to the word after the CALL and leaves SP as it was
before the CALL (R171, R174, R175). -/
def Obligations.RetUndoesCall : Prop :=
  ∀ (nnn : Addr12) (z : Nibble) (s t u : State), s.sp.val < 16 →
    exec (.callAddr nnn) s = .next t → u.stack = t.stack → u.sp = t.sp →
    ∃ w, exec (.ret z) u = .next w ∧ w.pc = s.pc ∧ w.sp = s.sp ∧ w = { u with pc := w.pc, sp := w.sp }

/-! ### Skips -/

/-- SE Vx, byte and SNE Vx, byte (R191, R192). -/
def Obligations.ByteSkipsCompare : Prop :=
  Decodes 0xF000 0x3000 (fun op => .seByte (opX op) (opKK op)) ∧
  Decodes 0xF000 0x4000 (fun op => .sneByte (opX op) (opKK op)) ∧
  ∀ (x : Reg) (kk : Byte) (s : State),
    SkipsWhen (.seByte x kk) s (s.reg x = kk) ∧ SkipsWhen (.sneByte x kk) s (s.reg x ≠ kk)

/-- SE Vx, Vy and SNE Vx, Vy, for every value of the ignored nibble (R193, R194). -/
def Obligations.RegisterSkipsCompare : Prop :=
  Decodes 0xF000 0x5000 (fun op => .seReg (opX op) (opY op) (opN op)) ∧
  Decodes 0xF000 0x9000 (fun op => .sneReg (opX op) (opY op) (opN op)) ∧
  ∀ (x y : Reg) (z : Nibble) (s : State),
    SkipsWhen (.seReg x y z) s (s.reg x = s.reg y) ∧ SkipsWhen (.sneReg x y z) s (s.reg x ≠ s.reg y)

/-! ### Register loads and ALU -/

/-- LD Vx, byte and LD Vx, Vy (R212, R214). -/
def Obligations.RegisterLoadsCopy : Prop :=
  Decodes 0xF000 0x6000 (fun op => .ldByte (opX op) (opKK op)) ∧
  Decodes 0xF00F 0x8000 (fun op => .ldReg (opX op) (opY op)) ∧
  ∀ (x y : Reg) (kk : Byte) (s : State),
    WritesReg (.ldByte x kk) s x kk ∧ WritesReg (.ldReg x y) s x (s.reg y)

/-- ADD Vx, byte wraps and records no carry (R213). -/
def Obligations.AddByteWraps : Prop :=
  Decodes 0xF000 0x7000 (fun op => .addByte (opX op) (opKK op)) ∧
  ∀ (x : Reg) (kk : Byte) (s : State), ∃ w : Byte,
    w.toNat = ((s.reg x).toNat + kk.toNat) % 256 ∧ WritesReg (.addByte x kk) s x w

/-- OR, AND and XOR combine bit by bit and leave VF alone unless x is 0xF (R215, R216, R217). -/
def Obligations.LogicalOpsWorkBitwise : Prop :=
  Decodes 0xF00F 0x8001 (fun op => .orReg (opX op) (opY op)) ∧
  Decodes 0xF00F 0x8002 (fun op => .andReg (opX op) (opY op)) ∧
  Decodes 0xF00F 0x8003 (fun op => .xorReg (opX op) (opY op)) ∧
  ∀ (x y : Reg) (s : State),
    (∃ w : Byte, (∀ k < 8, w.getLsbD k = ((s.reg x).getLsbD k || (s.reg y).getLsbD k)) ∧
      WritesReg (.orReg x y) s x w) ∧
    (∃ w : Byte, (∀ k < 8, w.getLsbD k = ((s.reg x).getLsbD k && (s.reg y).getLsbD k)) ∧
      WritesReg (.andReg x y) s x w) ∧
    (∃ w : Byte, (∀ k < 8, w.getLsbD k = ((s.reg x).getLsbD k ^^ (s.reg y).getLsbD k)) ∧
      WritesReg (.xorReg x y) s x w)

/-- ADD Vx, Vy: the sum modulo 256, VF = 1 iff it exceeds 255, the flag last (R218, R211). -/
def Obligations.AddRegSetsCarry : Prop :=
  Decodes 0xF00F 0x8004 (fun op => .addReg (opX op) (opY op)) ∧
  ∀ (x y : Reg) (s : State), ∃ r : Byte,
    r.toNat = ((s.reg x).toNat + (s.reg y).toNat) % 256 ∧
    WritesRegAndFlag (.addReg x y) s x r
      (if (s.reg x).toNat + (s.reg y).toNat > 255 then 1 else 0)

/-- SUB Vx, Vy and SUBN Vx, Vy: the difference modulo 256, VF = 1 iff there is no borrow, the flag last
(R219, R221, R211). -/
def Obligations.SubtractionsSetNoBorrow : Prop :=
  Decodes 0xF00F 0x8005 (fun op => .subReg (opX op) (opY op)) ∧
  Decodes 0xF00F 0x8007 (fun op => .subn (opX op) (opY op)) ∧
  ∀ (x y : Reg) (s : State),
    (∃ r : Byte, r.toNat = ((s.reg x).toNat + 256 - (s.reg y).toNat) % 256 ∧
      WritesRegAndFlag (.subReg x y) s x r (if (s.reg x).toNat ≥ (s.reg y).toNat then 1 else 0)) ∧
    (∃ r : Byte, r.toNat = ((s.reg y).toNat + 256 - (s.reg x).toNat) % 256 ∧
      WritesRegAndFlag (.subn x y) s x r (if (s.reg y).toNat ≥ (s.reg x).toNat then 1 else 0))

/-- SHR Vx halves and SHL Vx doubles modulo 256; VF is the bit shifted out, the flag last; Vy is not read
(R220, R222, R211). -/
def Obligations.ShiftsMoveVx : Prop :=
  Decodes 0xF00F 0x8006 (fun op => .shr (opX op) (opY op)) ∧
  Decodes 0xF00F 0x800E (fun op => .shl (opX op) (opY op)) ∧
  ∀ (x y : Reg) (s : State),
    (∃ r f : Byte, r.toNat = (s.reg x).toNat / 2 ∧ f.toNat = (s.reg x).toNat % 2 ∧
      WritesRegAndFlag (.shr x y) s x r f) ∧
    (∃ r f : Byte, r.toNat = (s.reg x).toNat * 2 % 256 ∧ f.toNat = (s.reg x).toNat / 128 ∧
      WritesRegAndFlag (.shl x y) s x r f)

/-! ### Index and random -/

/-- LD I, addr (R240). -/
def Obligations.LdILoadsIndex : Prop :=
  Decodes 0xF000 0xA000 (fun op => .ldI (opNNN op)) ∧
  ∀ (nnn : Addr12) (s : State), ∃ i : Word, i.toNat = nnn.toNat ∧
    exec (.ldI nnn) s = .next { s with i := i }

/-- RND Vx, byte: the random byte of the Cycle AND kk, whatever that byte is; of a free one nothing is
known, and the statement holds for every value of it (R246). -/
def Obligations.RndMasksTheRandomByte : Prop :=
  Decodes 0xF000 0xC000 (fun op => .rnd (opX op) (opKK op)) ∧
  ∀ (x : Reg) (kk : Byte) (s : State),
    (∀ b, s.rnd = .given b → WritesReg (.rnd x kk) s x (b &&& kk)) ∧
    (∀ n, s.rnd = .free n → WritesReg (.rnd x kk) s x (Config.randomByte n &&& kk))

/-! ### Draw -/

/-- DRW Vx, Vy, nibble: exactly the pixels under set sprite bits are toggled, VF = 1 iff one of them was
set, the draw flag is set and Draw carries the new framebuffer; a block past the end of memory faults and
changes nothing else (R260, R262). That bit 7 is the leftmost pixel is the spec's own choice (R261, D10; log
entry 15). -/
def Obligations.DrwTogglesSpritePixels : Prop :=
  Decodes 0xF000 0xD000 (fun op => .drw (opX op) (opY op) (opN op)) ∧
  ∀ (x y : Reg) (n : Nibble) (s : State),
    (Inside s.i.toNat n.toNat → ∃ t, exec (.drw x y n) s = .next t ∧
      (∀ r c, t.pixel r c ≠ s.pixel r c ↔
        SpriteBit s (s.reg x) (s.reg y) s.i.toNat n.toNat r c) ∧
      (t.reg vf = 1 ↔
        ∃ r c, SpriteBit s (s.reg x) (s.reg y) s.i.toNat n.toNat r c ∧ s.pixel r c = true) ∧
      (t.reg vf = 0 ∨ t.reg vf = 1) ∧
      (∀ k, k ≠ vf → t.reg k = s.reg k) ∧
      t = { s with
        fb := t.fb
        v := t.v
        drawFlag := true
        events := if s.drawObs = none then s.events
          else s.events ++ [.draw t.screen 64 32] }) ∧
    (¬Inside s.i.toNat n.toNat → exec (.drw x y n) s =
      .next (faulted s (.drw x y n) .memBounds (lowestOutside s.i.toNat)))

/-- Drawing the same sprite at the same place twice restores the framebuffer, and the second draw sets VF
exactly when a set sprite bit fell on a pixel that was 0 before the first draw (R263 (e)). -/
def Obligations.DrawingTwiceRestoresTheScreen : Prop :=
  ∀ (x y : Reg) (n : Nibble) (s t t' u : State), Inside s.i.toNat n.toNat →
    exec (.drw x y n) s = .next t →
    t'.fb = t.fb → t'.i = s.i → t'.reg x = s.reg x → t'.reg y = s.reg y →
    (∀ a, t'.readByte a = s.readByte a) →
    exec (.drw x y n) t' = .next u →
    u.fb = s.fb ∧
    (u.reg vf = 1 ↔
      ∃ r c, SpriteBit s (s.reg x) (s.reg y) s.i.toNat n.toNat r c ∧ s.pixel r c = false)

/-! ### Key skips -/

/-- SKP and SKNP: skip by the state of key Vx, and KeyIndex for a number above 15 (R280, R281). That SKP
skips on a key that is down is the spec's own reading of the mnemonics (46_keys.md, D12; log entry 15). -/
def Obligations.KeySkipsTestTheKey : Prop :=
  Decodes 0xF0FF 0xE09E (fun op => .skp (opX op)) ∧
  Decodes 0xF0FF 0xE0A1 (fun op => .sknp (opX op)) ∧
  ∀ (x : Reg) (s : State),
    (∀ _ : (s.reg x).toNat < 16,
      SkipsWhen (.skp x) s (s.key[(s.reg x).toNat] = true) ∧
      SkipsWhen (.sknp x) s (s.key[(s.reg x).toNat] = false)) ∧
    (15 < (s.reg x).toNat →
      exec (.skp x) s = .next (faulted s (.skp x) .keyIndex (s.reg x).toNat) ∧
      exec (.sknp x) s = .next (faulted s (.sknp x) .keyIndex (s.reg x).toNat))

/-! ### Family 0xF -/

/-- LD Vx, DT; LD DT, Vx; LD ST, Vx, before the timer step of their cycle (R290, R292, R293). -/
def Obligations.TimerLoadsMoveBytes : Prop :=
  Decodes 0xF0FF 0xF007 (fun op => .ldVxDT (opX op)) ∧
  Decodes 0xF0FF 0xF015 (fun op => .ldDTVx (opX op)) ∧
  Decodes 0xF0FF 0xF018 (fun op => .ldSTVx (opX op)) ∧
  ∀ (x : Reg) (s : State),
    WritesReg (.ldVxDT x) s x s.dt ∧
    exec (.ldDTVx x) s = .next { s with dt := s.reg x } ∧
    exec (.ldSTVx x) s = .next { s with st := s.reg x }

/-- LD Vx, K: the lowest key that is down goes to Vx; with every key up, pc goes back to the instruction and
nothing else changes (R291). -/
def Obligations.KeyWaitTakesTheLowestKey : Prop :=
  Decodes 0xF0FF 0xF00A (fun op => .ldVxK (opX op)) ∧
  ∀ (x : Reg) (s : State),
    (∀ k : Fin 16, s.key[k.val] = true → (∀ j : Fin 16, j < k → s.key[j.val] = false) →
      WritesReg (.ldVxK x) s x (BitVec.ofNat 8 k.val)) ∧
    ((∀ k : Fin 16, s.key[k.val] = false) → exec (.ldVxK x) s = .next { s with pc := s.pc - 2 })

/-- A step of a waiting LD Vx, K leaves pc at the instruction, with the timers counting on (R291). -/
def Obligations.KeyWaitStaysAtItsAddress : Prop :=
  ∀ (s : State) (x : Reg) (op : Word), s.fault = none → s.fetch = .ok op → decode op = .ldVxK x →
    (∀ k : Fin 16, s.key[k.val] = false) →
    ∃ t, step s = .next t ∧ t.pc = s.pc ∧ t.v = s.v ∧
      t.dt.toNat = s.dt.toNat - 1 ∧ t.st.toNat = s.st.toNat - 1

/-- ADD I, Vx wraps at 16 bits and writes no flag; LD F, Vx uses the full byte (R294, R295). -/
def Obligations.IndexUpdatesComputeI : Prop :=
  Decodes 0xF0FF 0xF01E (fun op => .addI (opX op)) ∧
  Decodes 0xF0FF 0xF029 (fun op => .ldF (opX op)) ∧
  ∀ (x : Reg) (s : State),
    (∃ i : Word, i.toNat = (s.i.toNat + (s.reg x).toNat) % 65536 ∧
      exec (.addI x) s = .next { s with i := i }) ∧
    (∃ i : Word, i.toNat = 0x050 + 5 * (s.reg x).toNat ∧
      exec (.ldF x) s = .next { s with i := i })

/-- LD B, Vx: the three digits stand at I, I + 1 and I + 2, every other byte is as before; a block past the
end of memory faults with no byte written (R296). -/
def Obligations.LdBStoresDigits : Prop :=
  Decodes 0xF0FF 0xF033 (fun op => .ldB (opX op)) ∧
  ∀ (x : Reg) (s : State),
    (Inside s.i.toNat 3 → ∃ t, exec (.ldB x) s = .next t ∧
      (t.readByte s.i.toNat).toNat = (s.reg x).toNat / 100 ∧
      (t.readByte (s.i.toNat + 1)).toNat = (s.reg x).toNat / 10 % 10 ∧
      (t.readByte (s.i.toNat + 2)).toNat = (s.reg x).toNat % 10 ∧
      (∀ a, a < s.i.toNat ∨ s.i.toNat + 3 ≤ a → t.readByte a = s.readByte a) ∧
      t = { s with mem := t.mem }) ∧
    (¬Inside s.i.toNat 3 → exec (.ldB x) s =
      .next (faulted s (.ldB x) .memBounds (lowestOutside s.i.toNat)))

/-- LD [I], Vx: V0..Vx stand at I .. I + x, every other byte and I are as before; a block past the end of
memory faults with no byte written (R297). -/
def Obligations.StoreRegsWritesTheBlock : Prop :=
  Decodes 0xF0FF 0xF055 (fun op => .storeRegs (opX op)) ∧
  ∀ (x : Reg) (s : State),
    (Inside s.i.toNat (x.val + 1) → ∃ t, exec (.storeRegs x) s = .next t ∧
      (∀ k : Reg, k ≤ x → t.readByte (s.i.toNat + k.val) = s.reg k) ∧
      (∀ a, a < s.i.toNat ∨ s.i.toNat + (x.val + 1) ≤ a → t.readByte a = s.readByte a) ∧
      t = { s with mem := t.mem }) ∧
    (¬Inside s.i.toNat (x.val + 1) → exec (.storeRegs x) s =
      .next (faulted s (.storeRegs x) .memBounds (lowestOutside s.i.toNat)))

/-- LD Vx, [I]: V0..Vx are the bytes at I .. I + x, every other register and I are as before; a block past
the end of memory faults with no register written (R298). -/
def Obligations.LoadRegsReadsTheBlock : Prop :=
  Decodes 0xF0FF 0xF065 (fun op => .loadRegs (opX op)) ∧
  ∀ (x : Reg) (s : State),
    (Inside s.i.toNat (x.val + 1) → ∃ t, exec (.loadRegs x) s = .next t ∧
      (∀ k : Reg, k ≤ x → t.reg k = s.readByte (s.i.toNat + k.val)) ∧
      (∀ k : Reg, x < k → t.reg k = s.reg k) ∧
      t = { s with v := t.v }) ∧
    (¬Inside s.i.toNat (x.val + 1) → exec (.loadRegs x) s =
      .next (faulted s (.loadRegs x) .memBounds (lowestOutside s.i.toNat)))

/-! ### Host transactions -/

/-- LoadProgram: a program that fits stands at 0x200, pc is 0x200, every other byte and element is as
before and no event is emitted; one that does not fit changes no element (R353, R354, R355). -/
def Obligations.LoadProgramIsAllOrNothing : Prop :=
  ∀ (s : State) (bytes : List Byte),
    (bytes.length ≤ 3584 → ∃ t, transact (.loadProgram bytes) s = .next (t, .load .ok) ∧
      (∀ k, (h : k < bytes.length) → t.readByte (0x200 + k) = bytes[k]) ∧
      (∀ a, a < 0x200 ∨ 0x200 + bytes.length ≤ a → t.readByte a = s.readByte a) ∧
      t = { s with mem := t.mem, pc := 0x200, events := [] }) ∧
    (3584 < bytes.length →
      transact (.loadProgram bytes) s = .next ({ s with events := [] }, .load .sizeViolation))

/-- Reset: every element of R30 at its reset value, memory zero but for FONTSET at 0x050, the observers as
they were, and no event (R350); a newly built block is in that state with no observer (R351). -/
def Obligations.ResetRestoresEveryElement : Prop :=
  ∀ s : State, ∃ t, transact .reset s = .next (t, .none) ∧
    (∀ a, a < 0x050 ∨ 0x0A0 ≤ a → t.readByte a = 0) ∧
    (∀ d, (h : d < 80) → t.readByte (0x050 + d) = s.fontset[d]) ∧
    (∀ k : Fin 16, t.reg k = 0 ∧ t.stack[k.val] = 0 ∧ t.key[k.val] = false) ∧
    t.i = 0 ∧ t.pc = 0 ∧ t.sp = 0 ∧ t.dt = 0 ∧ t.st = 0 ∧ (∀ r c, t.pixel r c = false) ∧
    t.drawFlag = false ∧ t.fault = none ∧ t.drawObs = s.drawObs ∧ t.soundObs = s.soundObs ∧
    t.fontset = s.fontset ∧ t.events = [] ∧
    State.sameElements { t with drawObs := none, soundObs := none } (State.construct s.fontset)

/-- SetKey: inside 0..15 that key alone changes, outside nothing does, and no event is emitted (R336). -/
def Obligations.SetKeyChangesOneKey : Prop :=
  ∀ (s : State) (index : Int) (pressed : Bool), ∃ t,
    transact (.setKey index pressed) s = .next (t, .none) ∧
    (∀ k : Fin 16, t.key[k.val] = if (k.val : Int) = index then pressed else s.key[k.val]) ∧
    t = { s with key := t.key, events := [] }

/-- GetScreen returns 2048 bytes, pixel (r, c) at index r * 64 + c as 0 or 1, and changes no element
(R338, R43). -/
def Obligations.GetScreenIsRowMajor : Prop :=
  ∀ s : State, ∃ bytes : List Byte,
    transact .getScreen s = .next ({ s with events := [] }, .screen bytes) ∧ bytes.length = 2048 ∧
    ∀ (r : Fin 32) (c : Fin 64),
      bytes[r.val * 64 + c.val]? = some (if s.pixel r c then 1 else 0)

/-- SetDrawCallback and SetSoundCallback replace their observer, change nothing else and emit no event
(R155). -/
def Obligations.RegistrationSetsTheObserver : Prop :=
  ∀ (s : State) (opt : Option Observer),
    transact (.setDrawCallback opt) s = .next ({ s with drawObs := opt, events := [] }, .none) ∧
    transact (.setSoundCallback opt) s = .next ({ s with soundObs := opt, events := [] }, .none)

/-- RunFrame with any list of random bytes, a free byte for each cycle past its end (the model's choice, log
entry 17), and with what the observers call (the model's reading of R156, log entry 9): m + n cycles are m
cycles and then n cycles, one of them is one observed cycle, and one Cycle when no observer calls anything,
count ≤ 0 performs none, and without observer calls it always returns (R152, R153). -/
def Obligations.RunFrameIsItsCycles : Prop :=
  (∀ (m n : Nat) (rnds : List Byte) (calls : List (List ObserverCall)) (s : State),
    runFrame (m + n) rnds calls s =
      match runFrame m rnds calls s with
      | .next t => runCycles n (rnds.drop m) (calls.drop m) t
      | .fault f => .fault f
      | .refused f => .refused f) ∧
  (∀ (b : Byte) (rest : List Byte) (now : List ObserverCall) (later : List (List ObserverCall)) (s : State),
    runCycles 1 (b :: rest) (now :: later) s = observedCycle (.given b) now s ∧
    runCycles 1 (b :: rest) [] s = cycle (.given b) s ∧
    runCycles 1 [] [] s = cycle (.free s.cycles) s) ∧
  (∀ (r : RndArg) (s t : State), cycle r s = .next t → ∃ es, t.events = s.events ++ es) ∧
  (∀ (count : Int) (rnds : List Byte) (calls : List (List ObserverCall)) (s : State), count ≤ 0 →
    transact (.runFrame count rnds calls) s = .next ({ s with events := [] }, .none)) ∧
  (∀ (count : Int) (rnds : List Byte) (s : State), ∃ t, runFrame count rnds [] s = .next t)

/-- A cycle in which an observer runs, because it emitted Draw or Sound, is the cycle and then the calls the
observers make, in order, on the state it ended in; in any other cycle nobody calls. An observer's GetScreen
and SetKey do what the host's do, so a key it sets is there when the next cycle starts, and every other call
is refused (R156, R337, R366). The transaction Cycle is such a cycle with an empty event list at its start.
That the calls are an argument is the model's reading (log entry 9). -/
def Obligations.ObserverMayOnlySetKeysAndLook : Prop :=
  (∀ (r : RndArg) (calls : List ObserverCall) (s t : State), cycle r s = .next t →
    ∃ es, t.events = s.events ++ es ∧
      ((∃ e ∈ es, Observed e) → observedCycle r calls s = observerCalls calls t) ∧
      ((∀ e ∈ es, ¬Observed e) → observedCycle r calls s = .next t)) ∧
  (∀ (q : ObserverCall) (rest : List ObserverCall) (s : State),
    observerCalls [] s = .next s ∧
    observerCalls (q :: rest) s =
      match observerCall q s with
      | .next t => observerCalls rest t
      | .fault f => .fault f
      | .refused f => .refused f) ∧
  (∀ s : State,
    observerCall .getScreen s = .next s ∧
    (∀ (index : Int) (pressed : Bool), ∃ t u, observerCall (.setKey index pressed) s = .next t ∧
      transact (.setKey index pressed) s = .next (u, .none) ∧ t = { u with events := s.events }) ∧
    (∀ q ∈ [ObserverCall.reset, .loadProgram, .cycle, .runFrame, .setDrawCallback, .setSoundCallback],
      observerCall q s = .refused .reentrantCall)) ∧
  (∀ (r : RndArg) (calls : List ObserverCall) (s : State),
    transact (.cycle r calls) s =
      match observedCycle r calls { s with events := [] } with
      | .next t => .next (t, .none)
      | .fault f => .fault f
      | .refused f => .refused f)

/-- RunFrame called with its random bytes, one per cycle, is one Cycle after another with those bytes,
count ≤ 0 changes no element, and a cycle adds its events after those before it, so that RunFrame returns
the events of all its cycles in order (R152, R153). -/
def Obligations.RunFramePerformsItsCycles : Prop :=
  (∀ (rnds : List Byte) (s : State), ∃ t, cyclesWith rnds { s with events := [] } = .next t ∧
    transact (.runFrame rnds.length rnds []) s = .next (t, .none)) ∧
  (∀ (count : Int) (rnds : List Byte) (s : State), count ≤ 0 →
    transact (.runFrame count rnds []) s = .next ({ s with events := [] }, .none)) ∧
  (∀ (r : RndArg) (s t : State), cycle r s = .next t → ∃ es, t.events = s.events ++ es)
end

