-- ==== Sys2Proof/Laws/Decode.lean ====
section
/-! SUPPORT. The fields of an opcode built from each format, and an opcode rebuilt from its fields: the
lemmas from which proofs about decoding and encoding are assembled. -/

namespace Sys2Proof.Laws

/-! ### Fields of a word of format XYN -/

@[simp] theorem opFamily_formatXYN (f x y n : Nibble) : opFamily (formatXYN f x y n) = f := by
  apply BitVec.eq_of_getLsbD_eq
  intro k hk
  simp only [formatXYN, opFamily, BitVec.getLsbD_append, BitVec.getLsbD_extractLsb']
  interval_cases k <;> rfl

@[simp] theorem opHigh_formatXYN (f x y n : Nibble) : opHigh (formatXYN f x y n) = x := by
  apply BitVec.eq_of_getLsbD_eq
  intro k hk
  simp only [formatXYN, opHigh, BitVec.getLsbD_append, BitVec.getLsbD_extractLsb']
  interval_cases k <;> rfl

@[simp] theorem opMid_formatXYN (f x y n : Nibble) :
    (formatXYN f x y n).extractLsb' 4 4 = y := by
  apply BitVec.eq_of_getLsbD_eq
  intro k hk
  simp only [formatXYN, BitVec.getLsbD_append, BitVec.getLsbD_extractLsb']
  interval_cases k <;> rfl

@[simp] theorem opN_formatXYN (f x y n : Nibble) : opN (formatXYN f x y n) = n := by
  apply BitVec.eq_of_getLsbD_eq
  intro k hk
  simp only [formatXYN, opN, BitVec.getLsbD_append, BitVec.getLsbD_extractLsb']
  interval_cases k <;> rfl

@[simp] theorem opX_formatXYN (f x y n : Nibble) : opX (formatXYN f x y n) = x.toFin :=
  congrArg BitVec.toFin (opHigh_formatXYN f x y n)

@[simp] theorem opY_formatXYN (f x y n : Nibble) : opY (formatXYN f x y n) = y.toFin :=
  congrArg BitVec.toFin (opMid_formatXYN f x y n)

/-! ### Fields of a word of format XKK -/

@[simp] theorem opFamily_formatXKK (f x : Nibble) (kk : Byte) : opFamily (formatXKK f x kk) = f := by
  apply BitVec.eq_of_getLsbD_eq
  intro k hk
  simp only [formatXKK, opFamily, BitVec.getLsbD_append, BitVec.getLsbD_extractLsb']
  interval_cases k <;> rfl

@[simp] theorem opHigh_formatXKK (f x : Nibble) (kk : Byte) : opHigh (formatXKK f x kk) = x := by
  apply BitVec.eq_of_getLsbD_eq
  intro k hk
  simp only [formatXKK, opHigh, BitVec.getLsbD_append, BitVec.getLsbD_extractLsb']
  interval_cases k <;> rfl

@[simp] theorem opKK_formatXKK (f x : Nibble) (kk : Byte) : opKK (formatXKK f x kk) = kk := by
  apply BitVec.eq_of_getLsbD_eq
  intro k hk
  simp only [formatXKK, opKK, BitVec.getLsbD_append, BitVec.getLsbD_extractLsb']
  interval_cases k <;> rfl

@[simp] theorem opX_formatXKK (f x : Nibble) (kk : Byte) : opX (formatXKK f x kk) = x.toFin :=
  congrArg BitVec.toFin (opHigh_formatXKK f x kk)

/-! ### Fields of a word of format NNN -/

@[simp] theorem opFamily_formatNNN (f : Nibble) (nnn : Addr12) : opFamily (formatNNN f nnn) = f := by
  apply BitVec.eq_of_getLsbD_eq
  intro k hk
  simp only [formatNNN, opFamily, BitVec.getLsbD_append, BitVec.getLsbD_extractLsb']
  interval_cases k <;> rfl

@[simp] theorem opNNN_formatNNN (f : Nibble) (nnn : Addr12) : opNNN (formatNNN f nnn) = nnn := by
  apply BitVec.eq_of_getLsbD_eq
  intro k hk
  simp only [formatNNN, opNNN, BitVec.getLsbD_append, BitVec.getLsbD_extractLsb']
  interval_cases k <;> rfl

@[simp] theorem opKK_formatNNN (f : Nibble) (nnn : Addr12) :
    opKK (formatNNN f nnn) = nnn.extractLsb' 0 8 := by
  apply BitVec.eq_of_getLsbD_eq
  intro k hk
  simp only [formatNNN, opKK, BitVec.getLsbD_append, BitVec.getLsbD_extractLsb']
  interval_cases k <;> rfl

/-! ### A word rebuilt from its fields -/

theorem append_slices (op : Word) :
    formatXYN (op.extractLsb' 12 4) (op.extractLsb' 8 4) (op.extractLsb' 4 4) (op.extractLsb' 0 4)
      = op := by
  apply BitVec.eq_of_getLsbD_eq
  intro k hk
  simp only [formatXYN, BitVec.getLsbD_append, BitVec.getLsbD_extractLsb']
  interval_cases k <;> rfl

theorem append_slices_byte (op : Word) :
    formatXKK (op.extractLsb' 12 4) (op.extractLsb' 8 4) (op.extractLsb' 0 8) = op := by
  apply BitVec.eq_of_getLsbD_eq
  intro k hk
  simp only [formatXKK, BitVec.getLsbD_append, BitVec.getLsbD_extractLsb']
  interval_cases k <;> rfl

/-- A word is its four nibbles. -/
theorem formatXYN_fields (op : Word) :
    formatXYN (opFamily op) (regField (opX op)) (regField (opY op)) (opN op) = op :=
  append_slices op

/-- A word is its family, its x and its low byte. -/
theorem formatXKK_fields (op : Word) :
    formatXKK (opFamily op) (regField (opX op)) (opKK op) = op :=
  append_slices_byte op

/-- The same with op[11:8] as a plain nibble. -/
theorem formatZKK_fields (op : Word) : formatXKK (opFamily op) (opHigh op) (opKK op) = op :=
  append_slices_byte op

/-- A word is its family and its nnn. -/
theorem formatNNN_fields (op : Word) : formatNNN (opFamily op) (opNNN op) = op := by
  apply BitVec.eq_of_getLsbD_eq
  intro k hk
  simp only [formatNNN, opFamily, opNNN, BitVec.getLsbD_append, BitVec.getLsbD_extractLsb']
  interval_cases k <;> rfl

/-- kk is the low byte of nnn. -/
theorem nnn_lowByte (op : Word) : (opNNN op).extractLsb' 0 8 = opKK op := by
  apply BitVec.eq_of_getLsbD_eq
  intro k hk
  simp only [opNNN, opKK, BitVec.getLsbD_extractLsb']
  interval_cases k <;> rfl

/-- A register index survives its field. -/
@[simp] theorem toFin_regField (r : Reg) : (regField r).toFin = r := rfl

/-! ### Decoding by family (R114 to R120) -/

theorem decode_family0 {op : Word} (h : opFamily op = 0x0) :
    decode op = decodeFamily0 op := by simp [decode, h]

theorem decode_family1 {op : Word} (h : opFamily op = 0x1) :
    decode op = .jpAddr (opNNN op) := by simp [decode, h]

theorem decode_family2 {op : Word} (h : opFamily op = 0x2) :
    decode op = .callAddr (opNNN op) := by simp [decode, h]

theorem decode_family3 {op : Word} (h : opFamily op = 0x3) :
    decode op = .seByte (opX op) (opKK op) := by simp [decode, h]

theorem decode_family4 {op : Word} (h : opFamily op = 0x4) :
    decode op = .sneByte (opX op) (opKK op) := by simp [decode, h]

theorem decode_family5 {op : Word} (h : opFamily op = 0x5) :
    decode op = .seReg (opX op) (opY op) (opN op) := by simp [decode, h]

theorem decode_family6 {op : Word} (h : opFamily op = 0x6) :
    decode op = .ldByte (opX op) (opKK op) := by simp [decode, h]

theorem decode_family7 {op : Word} (h : opFamily op = 0x7) :
    decode op = .addByte (opX op) (opKK op) := by simp [decode, h]

theorem decode_family8 {op : Word} (h : opFamily op = 0x8) :
    decode op = decodeFamily8 op := by simp [decode, h]

theorem decode_family9 {op : Word} (h : opFamily op = 0x9) :
    decode op = .sneReg (opX op) (opY op) (opN op) := by simp [decode, h]

theorem decode_familyA {op : Word} (h : opFamily op = 0xA) :
    decode op = .ldI (opNNN op) := by simp [decode, h]

theorem decode_familyB {op : Word} (h : opFamily op = 0xB) :
    decode op = .jpV0 (opNNN op) := by simp [decode, h]

theorem decode_familyC {op : Word} (h : opFamily op = 0xC) :
    decode op = .rnd (opX op) (opKK op) := by simp [decode, h]

theorem decode_familyD {op : Word} (h : opFamily op = 0xD) :
    decode op = .drw (opX op) (opY op) (opN op) := by simp [decode, h]

theorem decode_familyE {op : Word} (h : opFamily op = 0xE) :
    decode op = decodeFamilyE op := by simp [decode, h]

theorem decode_familyF {op : Word} (h : opFamily op = 0xF) :
    decode op = decodeFamilyF op := by simp [decode, h]

/-- A family is one of sixteen. -/
theorem nibble_cases (f : Nibble) :
    f = 0x0 ∨ f = 0x1 ∨ f = 0x2 ∨ f = 0x3 ∨ f = 0x4 ∨ f = 0x5 ∨ f = 0x6 ∨ f = 0x7 ∨ f = 0x8 ∨
      f = 0x9 ∨ f = 0xA ∨ f = 0xB ∨ f = 0xC ∨ f = 0xD ∨ f = 0xE ∨ f = 0xF := by
  revert f; decide

/-- The unlisted opcodes in terms of the decoder's fields. -/
theorem unlistedOpcode_eq (op : Word) : unlistedOpcode op =
    ((opFamily op == 0x8 && [0x8, 0x9, 0xA, 0xB, 0xC, 0xD, 0xF].contains (opN op)) ||
    (opFamily op == 0xE && !([0x9E, 0xA1].contains (opKK op))) ||
    (opFamily op == 0xF &&
      !([0x07, 0x0A, 0x15, 0x18, 0x1E, 0x29, 0x33, 0x55, 0x65].contains (opKK op)))) := rfl

/-- The check of SYS in terms of the decoder's fields. -/
theorem sysField_eq (op : Word) :
    sysField (opNNN op) = (opKK op != 0xE0 && opKK op != 0xEE) := by
  rw [sysField, nnn_lowByte]

/-! ### Masks of R121: which fields a mask compares -/

theorem formatXYN_and (a b c d a' b' c' d' : Nibble) :
    formatXYN a b c d &&& formatXYN a' b' c' d'
      = formatXYN (a &&& a') (b &&& b') (c &&& c') (d &&& d') := by
  apply BitVec.eq_of_getLsbD_eq
  intro k hk
  simp only [formatXYN, BitVec.getLsbD_append, BitVec.getLsbD_and]
  interval_cases k <;> rfl

theorem formatXKK_and (f x f' x' : Nibble) (kk kk' : Byte) :
    formatXKK f x kk &&& formatXKK f' x' kk'
      = formatXKK (f &&& f') (x &&& x') (kk &&& kk') := by
  apply BitVec.eq_of_getLsbD_eq
  intro k hk
  simp only [formatXKK, BitVec.getLsbD_append, BitVec.getLsbD_and]
  interval_cases k <;> rfl

theorem nibble_and_F (a : Nibble) : a &&& 15#4 = a := BitVec.and_allOnes

theorem byte_and_FF (a : Byte) : a &&& 255#8 = a := BitVec.and_allOnes

/-- Mask 0xF000 keeps the family. -/
theorem and_maskFamily (op : Word) : op &&& 0xF000 = formatXYN (opFamily op) 0 0 0 := by
  conv_lhs => rw [← formatXYN_fields op, show (0xF000 : Word) = formatXYN 0xF 0 0 0 from rfl]
  rw [formatXYN_and]
  simp [nibble_and_F]

/-- Mask 0xF00F keeps the family and n. -/
theorem and_maskFamilyN (op : Word) :
    op &&& 0xF00F = formatXYN (opFamily op) 0 0 (opN op) := by
  conv_lhs => rw [← formatXYN_fields op, show (0xF00F : Word) = formatXYN 0xF 0 0 0xF from rfl]
  rw [formatXYN_and]
  simp [nibble_and_F]

/-- Mask 0xF0FF keeps the family and kk. -/
theorem and_maskFamilyKK (op : Word) : op &&& 0xF0FF = formatXKK (opFamily op) 0 (opKK op) := by
  conv_lhs => rw [← formatXKK_fields op, show (0xF0FF : Word) = formatXKK 0xF 0 0xFF from rfl]
  rw [formatXKK_and]
  simp [nibble_and_F, byte_and_FF]

/-- A match of mask 0xF000 compares the family. -/
theorem mask_family (op : Word) (f : Nibble) :
    op &&& 0xF000 = formatXYN f 0 0 0 ↔ opFamily op = f := by
  rw [and_maskFamily]
  exact ⟨fun h => by simpa using congrArg opFamily h, fun h => by rw [h]⟩

/-- A match of mask 0xF00F compares the family and n. -/
theorem mask_familyN (op : Word) (f n : Nibble) :
    op &&& 0xF00F = formatXYN f 0 0 n ↔ opFamily op = f ∧ opN op = n := by
  rw [and_maskFamilyN]
  exact ⟨fun h => ⟨by simpa using congrArg opFamily h, by simpa using congrArg opN h⟩,
    fun h => by rw [h.1, h.2]⟩

/-- A match of mask 0xF0FF compares the family and kk. -/
theorem mask_familyKK (op : Word) (f : Nibble) (kk : Byte) :
    op &&& 0xF0FF = formatXKK f 0 kk ↔ opFamily op = f ∧ opKK op = kk := by
  rw [and_maskFamilyKK]
  exact ⟨fun h => ⟨by simpa using congrArg opFamily h, by simpa using congrArg opKK h⟩,
    fun h => by rw [h.1, h.2]⟩

/-! ### Big-endian bytes (R84) -/

/-- The bytes of an opcode as memory holds them give the opcode back. -/
@[simp] theorem wordOfBytes_bytesOfWord (op : Word) :
    wordOfBytes (op.extractLsb' 8 8) (op.extractLsb' 0 8) = op := by
  apply BitVec.eq_of_getLsbD_eq
  intro k hk
  simp only [wordOfBytes, BitVec.getLsbD_append, BitVec.getLsbD_extractLsb']
  interval_cases k <;> rfl

/-- Decoding the two bytes of an opcode is decoding the opcode. -/
theorem decodeBytes_bytesOfWord (op : Word) (rest : List Byte) :
    decodeBytes (bytesOfWord op ++ rest) = .ok (decode op, rest) := by
  simp [bytesOfWord, decodeBytes]

/-- Two bytes or more always decode (R124). -/
theorem decodeBytes_cons (hi lo : Byte) (rest : List Byte) :
    decodeBytes (hi :: lo :: rest) = .ok (decode (wordOfBytes hi lo), rest) := rfl

end Sys2Proof.Laws
end

