-- ==== Sys2Proof/Laws/State.lean ====
section
/-! SUPPORT. What every update of the state does to every field, so that no later proof unfolds a record
update; and each conditional operation as ONE record update. -/

namespace Sys2Proof.Laws
open Sys2Proof.Machine

variable (s : State)

/-! ### writeByte -/

@[simp] theorem writeByte_mem (a : Nat) (w : Byte) :
    (s.writeByte a w).mem = Memory.write s.fontset s.mem a w := rfl
@[simp] theorem writeByte_v (a : Nat) (w : Byte) : (s.writeByte a w).v = s.v := rfl
@[simp] theorem writeByte_i (a : Nat) (w : Byte) : (s.writeByte a w).i = s.i := rfl
@[simp] theorem writeByte_pc (a : Nat) (w : Byte) : (s.writeByte a w).pc = s.pc := rfl
@[simp] theorem writeByte_stack (a : Nat) (w : Byte) : (s.writeByte a w).stack = s.stack := rfl
@[simp] theorem writeByte_sp (a : Nat) (w : Byte) : (s.writeByte a w).sp = s.sp := rfl
@[simp] theorem writeByte_fb (a : Nat) (w : Byte) : (s.writeByte a w).fb = s.fb := rfl
@[simp] theorem writeByte_dt (a : Nat) (w : Byte) : (s.writeByte a w).dt = s.dt := rfl
@[simp] theorem writeByte_st (a : Nat) (w : Byte) : (s.writeByte a w).st = s.st := rfl
@[simp] theorem writeByte_key (a : Nat) (w : Byte) : (s.writeByte a w).key = s.key := rfl
@[simp] theorem writeByte_drawFlag (a : Nat) (w : Byte) :
    (s.writeByte a w).drawFlag = s.drawFlag := rfl
@[simp] theorem writeByte_drawObs (a : Nat) (w : Byte) :
    (s.writeByte a w).drawObs = s.drawObs := rfl
@[simp] theorem writeByte_soundObs (a : Nat) (w : Byte) :
    (s.writeByte a w).soundObs = s.soundObs := rfl
@[simp] theorem writeByte_fault (a : Nat) (w : Byte) : (s.writeByte a w).fault = s.fault := rfl
@[simp] theorem writeByte_fontset (a : Nat) (w : Byte) :
    (s.writeByte a w).fontset = s.fontset := rfl
@[simp] theorem writeByte_rnd (a : Nat) (w : Byte) : (s.writeByte a w).rnd = s.rnd := rfl
@[simp] theorem writeByte_cycles (a : Nat) (w : Byte) : (s.writeByte a w).cycles = s.cycles := rfl
@[simp] theorem writeByte_events (a : Nat) (w : Byte) : (s.writeByte a w).events = s.events := rfl

/-! ### setReg -/

@[simp] theorem setReg_mem (r : Reg) (w : Byte) : (s.setReg r w).mem = s.mem := rfl
@[simp] theorem setReg_v (r : Reg) (w : Byte) : (s.setReg r w).v = s.v.set r.val w := rfl
@[simp] theorem setReg_i (r : Reg) (w : Byte) : (s.setReg r w).i = s.i := rfl
@[simp] theorem setReg_pc (r : Reg) (w : Byte) : (s.setReg r w).pc = s.pc := rfl
@[simp] theorem setReg_stack (r : Reg) (w : Byte) : (s.setReg r w).stack = s.stack := rfl
@[simp] theorem setReg_sp (r : Reg) (w : Byte) : (s.setReg r w).sp = s.sp := rfl
@[simp] theorem setReg_fb (r : Reg) (w : Byte) : (s.setReg r w).fb = s.fb := rfl
@[simp] theorem setReg_dt (r : Reg) (w : Byte) : (s.setReg r w).dt = s.dt := rfl
@[simp] theorem setReg_st (r : Reg) (w : Byte) : (s.setReg r w).st = s.st := rfl
@[simp] theorem setReg_key (r : Reg) (w : Byte) : (s.setReg r w).key = s.key := rfl
@[simp] theorem setReg_drawFlag (r : Reg) (w : Byte) : (s.setReg r w).drawFlag = s.drawFlag := rfl
@[simp] theorem setReg_drawObs (r : Reg) (w : Byte) : (s.setReg r w).drawObs = s.drawObs := rfl
@[simp] theorem setReg_soundObs (r : Reg) (w : Byte) : (s.setReg r w).soundObs = s.soundObs := rfl
@[simp] theorem setReg_fault (r : Reg) (w : Byte) : (s.setReg r w).fault = s.fault := rfl
@[simp] theorem setReg_fontset (r : Reg) (w : Byte) : (s.setReg r w).fontset = s.fontset := rfl
@[simp] theorem setReg_rnd (r : Reg) (w : Byte) : (s.setReg r w).rnd = s.rnd := rfl
@[simp] theorem setReg_cycles (r : Reg) (w : Byte) : (s.setReg r w).cycles = s.cycles := rfl
@[simp] theorem setReg_events (r : Reg) (w : Byte) : (s.setReg r w).events = s.events := rfl

/-! ### setRegFlag -/

@[simp] theorem setRegFlag_mem (x : Reg) (r f : Byte) : (s.setRegFlag x r f).mem = s.mem := rfl
@[simp] theorem setRegFlag_v (x : Reg) (r f : Byte) :
    (s.setRegFlag x r f).v = (s.v.set x.val r).set vf.val f := rfl
@[simp] theorem setRegFlag_i (x : Reg) (r f : Byte) : (s.setRegFlag x r f).i = s.i := rfl
@[simp] theorem setRegFlag_pc (x : Reg) (r f : Byte) : (s.setRegFlag x r f).pc = s.pc := rfl
@[simp] theorem setRegFlag_stack (x : Reg) (r f : Byte) :
    (s.setRegFlag x r f).stack = s.stack := rfl
@[simp] theorem setRegFlag_sp (x : Reg) (r f : Byte) : (s.setRegFlag x r f).sp = s.sp := rfl
@[simp] theorem setRegFlag_fb (x : Reg) (r f : Byte) : (s.setRegFlag x r f).fb = s.fb := rfl
@[simp] theorem setRegFlag_dt (x : Reg) (r f : Byte) : (s.setRegFlag x r f).dt = s.dt := rfl
@[simp] theorem setRegFlag_st (x : Reg) (r f : Byte) : (s.setRegFlag x r f).st = s.st := rfl
@[simp] theorem setRegFlag_key (x : Reg) (r f : Byte) : (s.setRegFlag x r f).key = s.key := rfl
@[simp] theorem setRegFlag_drawFlag (x : Reg) (r f : Byte) :
    (s.setRegFlag x r f).drawFlag = s.drawFlag := rfl
@[simp] theorem setRegFlag_drawObs (x : Reg) (r f : Byte) :
    (s.setRegFlag x r f).drawObs = s.drawObs := rfl
@[simp] theorem setRegFlag_soundObs (x : Reg) (r f : Byte) :
    (s.setRegFlag x r f).soundObs = s.soundObs := rfl
@[simp] theorem setRegFlag_fault (x : Reg) (r f : Byte) :
    (s.setRegFlag x r f).fault = s.fault := rfl
@[simp] theorem setRegFlag_fontset (x : Reg) (r f : Byte) :
    (s.setRegFlag x r f).fontset = s.fontset := rfl
@[simp] theorem setRegFlag_rnd (x : Reg) (r f : Byte) : (s.setRegFlag x r f).rnd = s.rnd := rfl
@[simp] theorem setRegFlag_cycles (x : Reg) (r f : Byte) :
    (s.setRegFlag x r f).cycles = s.cycles := rfl
@[simp] theorem setRegFlag_events (x : Reg) (r f : Byte) :
    (s.setRegFlag x r f).events = s.events := rfl

/-! ### loadRegs -/

@[simp] theorem loadRegs_mem (base : Nat) (x : Reg) : (s.loadRegs base x).mem = s.mem := rfl
@[simp] theorem loadRegs_v (base : Nat) (x : Reg) :
    (s.loadRegs base x).v =
      Vector.ofFn fun k => if k ≤ x then s.readByte (base + k.val) else s.reg k := rfl
@[simp] theorem loadRegs_i (base : Nat) (x : Reg) : (s.loadRegs base x).i = s.i := rfl
@[simp] theorem loadRegs_pc (base : Nat) (x : Reg) : (s.loadRegs base x).pc = s.pc := rfl
@[simp] theorem loadRegs_stack (base : Nat) (x : Reg) : (s.loadRegs base x).stack = s.stack := rfl
@[simp] theorem loadRegs_sp (base : Nat) (x : Reg) : (s.loadRegs base x).sp = s.sp := rfl
@[simp] theorem loadRegs_fb (base : Nat) (x : Reg) : (s.loadRegs base x).fb = s.fb := rfl
@[simp] theorem loadRegs_dt (base : Nat) (x : Reg) : (s.loadRegs base x).dt = s.dt := rfl
@[simp] theorem loadRegs_st (base : Nat) (x : Reg) : (s.loadRegs base x).st = s.st := rfl
@[simp] theorem loadRegs_key (base : Nat) (x : Reg) : (s.loadRegs base x).key = s.key := rfl
@[simp] theorem loadRegs_drawFlag (base : Nat) (x : Reg) :
    (s.loadRegs base x).drawFlag = s.drawFlag := rfl
@[simp] theorem loadRegs_drawObs (base : Nat) (x : Reg) :
    (s.loadRegs base x).drawObs = s.drawObs := rfl
@[simp] theorem loadRegs_soundObs (base : Nat) (x : Reg) :
    (s.loadRegs base x).soundObs = s.soundObs := rfl
@[simp] theorem loadRegs_fault (base : Nat) (x : Reg) : (s.loadRegs base x).fault = s.fault := rfl
@[simp] theorem loadRegs_fontset (base : Nat) (x : Reg) :
    (s.loadRegs base x).fontset = s.fontset := rfl
@[simp] theorem loadRegs_rnd (base : Nat) (x : Reg) : (s.loadRegs base x).rnd = s.rnd := rfl
@[simp] theorem loadRegs_cycles (base : Nat) (x : Reg) :
    (s.loadRegs base x).cycles = s.cycles := rfl
@[simp] theorem loadRegs_events (base : Nat) (x : Reg) :
    (s.loadRegs base x).events = s.events := rfl

/-! ### setI -/

@[simp] theorem setI_mem (w : Word) : (s.setI w).mem = s.mem := rfl
@[simp] theorem setI_v (w : Word) : (s.setI w).v = s.v := rfl
@[simp] theorem setI_i (w : Word) : (s.setI w).i = w := rfl
@[simp] theorem setI_pc (w : Word) : (s.setI w).pc = s.pc := rfl
@[simp] theorem setI_stack (w : Word) : (s.setI w).stack = s.stack := rfl
@[simp] theorem setI_sp (w : Word) : (s.setI w).sp = s.sp := rfl
@[simp] theorem setI_fb (w : Word) : (s.setI w).fb = s.fb := rfl
@[simp] theorem setI_dt (w : Word) : (s.setI w).dt = s.dt := rfl
@[simp] theorem setI_st (w : Word) : (s.setI w).st = s.st := rfl
@[simp] theorem setI_key (w : Word) : (s.setI w).key = s.key := rfl
@[simp] theorem setI_drawFlag (w : Word) : (s.setI w).drawFlag = s.drawFlag := rfl
@[simp] theorem setI_drawObs (w : Word) : (s.setI w).drawObs = s.drawObs := rfl
@[simp] theorem setI_soundObs (w : Word) : (s.setI w).soundObs = s.soundObs := rfl
@[simp] theorem setI_fault (w : Word) : (s.setI w).fault = s.fault := rfl
@[simp] theorem setI_fontset (w : Word) : (s.setI w).fontset = s.fontset := rfl
@[simp] theorem setI_rnd (w : Word) : (s.setI w).rnd = s.rnd := rfl
@[simp] theorem setI_cycles (w : Word) : (s.setI w).cycles = s.cycles := rfl
@[simp] theorem setI_events (w : Word) : (s.setI w).events = s.events := rfl

/-! ### setPc -/

@[simp] theorem setPc_mem (w : Word) : (s.setPc w).mem = s.mem := rfl
@[simp] theorem setPc_v (w : Word) : (s.setPc w).v = s.v := rfl
@[simp] theorem setPc_i (w : Word) : (s.setPc w).i = s.i := rfl
@[simp] theorem setPc_pc (w : Word) : (s.setPc w).pc = w := rfl
@[simp] theorem setPc_stack (w : Word) : (s.setPc w).stack = s.stack := rfl
@[simp] theorem setPc_sp (w : Word) : (s.setPc w).sp = s.sp := rfl
@[simp] theorem setPc_fb (w : Word) : (s.setPc w).fb = s.fb := rfl
@[simp] theorem setPc_dt (w : Word) : (s.setPc w).dt = s.dt := rfl
@[simp] theorem setPc_st (w : Word) : (s.setPc w).st = s.st := rfl
@[simp] theorem setPc_key (w : Word) : (s.setPc w).key = s.key := rfl
@[simp] theorem setPc_drawFlag (w : Word) : (s.setPc w).drawFlag = s.drawFlag := rfl
@[simp] theorem setPc_drawObs (w : Word) : (s.setPc w).drawObs = s.drawObs := rfl
@[simp] theorem setPc_soundObs (w : Word) : (s.setPc w).soundObs = s.soundObs := rfl
@[simp] theorem setPc_fault (w : Word) : (s.setPc w).fault = s.fault := rfl
@[simp] theorem setPc_fontset (w : Word) : (s.setPc w).fontset = s.fontset := rfl
@[simp] theorem setPc_rnd (w : Word) : (s.setPc w).rnd = s.rnd := rfl
@[simp] theorem setPc_cycles (w : Word) : (s.setPc w).cycles = s.cycles := rfl
@[simp] theorem setPc_events (w : Word) : (s.setPc w).events = s.events := rfl

/-! ### setDt -/

@[simp] theorem setDt_mem (w : Byte) : (s.setDt w).mem = s.mem := rfl
@[simp] theorem setDt_v (w : Byte) : (s.setDt w).v = s.v := rfl
@[simp] theorem setDt_i (w : Byte) : (s.setDt w).i = s.i := rfl
@[simp] theorem setDt_pc (w : Byte) : (s.setDt w).pc = s.pc := rfl
@[simp] theorem setDt_stack (w : Byte) : (s.setDt w).stack = s.stack := rfl
@[simp] theorem setDt_sp (w : Byte) : (s.setDt w).sp = s.sp := rfl
@[simp] theorem setDt_fb (w : Byte) : (s.setDt w).fb = s.fb := rfl
@[simp] theorem setDt_dt (w : Byte) : (s.setDt w).dt = w := rfl
@[simp] theorem setDt_st (w : Byte) : (s.setDt w).st = s.st := rfl
@[simp] theorem setDt_key (w : Byte) : (s.setDt w).key = s.key := rfl
@[simp] theorem setDt_drawFlag (w : Byte) : (s.setDt w).drawFlag = s.drawFlag := rfl
@[simp] theorem setDt_drawObs (w : Byte) : (s.setDt w).drawObs = s.drawObs := rfl
@[simp] theorem setDt_soundObs (w : Byte) : (s.setDt w).soundObs = s.soundObs := rfl
@[simp] theorem setDt_fault (w : Byte) : (s.setDt w).fault = s.fault := rfl
@[simp] theorem setDt_fontset (w : Byte) : (s.setDt w).fontset = s.fontset := rfl
@[simp] theorem setDt_rnd (w : Byte) : (s.setDt w).rnd = s.rnd := rfl
@[simp] theorem setDt_cycles (w : Byte) : (s.setDt w).cycles = s.cycles := rfl
@[simp] theorem setDt_events (w : Byte) : (s.setDt w).events = s.events := rfl

/-! ### setSt -/

@[simp] theorem setSt_mem (w : Byte) : (s.setSt w).mem = s.mem := rfl
@[simp] theorem setSt_v (w : Byte) : (s.setSt w).v = s.v := rfl
@[simp] theorem setSt_i (w : Byte) : (s.setSt w).i = s.i := rfl
@[simp] theorem setSt_pc (w : Byte) : (s.setSt w).pc = s.pc := rfl
@[simp] theorem setSt_stack (w : Byte) : (s.setSt w).stack = s.stack := rfl
@[simp] theorem setSt_sp (w : Byte) : (s.setSt w).sp = s.sp := rfl
@[simp] theorem setSt_fb (w : Byte) : (s.setSt w).fb = s.fb := rfl
@[simp] theorem setSt_dt (w : Byte) : (s.setSt w).dt = s.dt := rfl
@[simp] theorem setSt_st (w : Byte) : (s.setSt w).st = w := rfl
@[simp] theorem setSt_key (w : Byte) : (s.setSt w).key = s.key := rfl
@[simp] theorem setSt_drawFlag (w : Byte) : (s.setSt w).drawFlag = s.drawFlag := rfl
@[simp] theorem setSt_drawObs (w : Byte) : (s.setSt w).drawObs = s.drawObs := rfl
@[simp] theorem setSt_soundObs (w : Byte) : (s.setSt w).soundObs = s.soundObs := rfl
@[simp] theorem setSt_fault (w : Byte) : (s.setSt w).fault = s.fault := rfl
@[simp] theorem setSt_fontset (w : Byte) : (s.setSt w).fontset = s.fontset := rfl
@[simp] theorem setSt_rnd (w : Byte) : (s.setSt w).rnd = s.rnd := rfl
@[simp] theorem setSt_cycles (w : Byte) : (s.setSt w).cycles = s.cycles := rfl
@[simp] theorem setSt_events (w : Byte) : (s.setSt w).events = s.events := rfl

/-! ### setKey -/

@[simp] theorem setKey_mem (k : Fin 16) (b : Bool) : (s.setKey k b).mem = s.mem := rfl
@[simp] theorem setKey_v (k : Fin 16) (b : Bool) : (s.setKey k b).v = s.v := rfl
@[simp] theorem setKey_i (k : Fin 16) (b : Bool) : (s.setKey k b).i = s.i := rfl
@[simp] theorem setKey_pc (k : Fin 16) (b : Bool) : (s.setKey k b).pc = s.pc := rfl
@[simp] theorem setKey_stack (k : Fin 16) (b : Bool) : (s.setKey k b).stack = s.stack := rfl
@[simp] theorem setKey_sp (k : Fin 16) (b : Bool) : (s.setKey k b).sp = s.sp := rfl
@[simp] theorem setKey_fb (k : Fin 16) (b : Bool) : (s.setKey k b).fb = s.fb := rfl
@[simp] theorem setKey_dt (k : Fin 16) (b : Bool) : (s.setKey k b).dt = s.dt := rfl
@[simp] theorem setKey_st (k : Fin 16) (b : Bool) : (s.setKey k b).st = s.st := rfl
@[simp] theorem setKey_key (k : Fin 16) (b : Bool) : (s.setKey k b).key = s.key.set k.val b := rfl
@[simp] theorem setKey_drawFlag (k : Fin 16) (b : Bool) :
    (s.setKey k b).drawFlag = s.drawFlag := rfl
@[simp] theorem setKey_drawObs (k : Fin 16) (b : Bool) : (s.setKey k b).drawObs = s.drawObs := rfl
@[simp] theorem setKey_soundObs (k : Fin 16) (b : Bool) :
    (s.setKey k b).soundObs = s.soundObs := rfl
@[simp] theorem setKey_fault (k : Fin 16) (b : Bool) : (s.setKey k b).fault = s.fault := rfl
@[simp] theorem setKey_fontset (k : Fin 16) (b : Bool) : (s.setKey k b).fontset = s.fontset := rfl
@[simp] theorem setKey_rnd (k : Fin 16) (b : Bool) : (s.setKey k b).rnd = s.rnd := rfl
@[simp] theorem setKey_cycles (k : Fin 16) (b : Bool) : (s.setKey k b).cycles = s.cycles := rfl
@[simp] theorem setKey_events (k : Fin 16) (b : Bool) : (s.setKey k b).events = s.events := rfl

/-! ### emit -/

@[simp] theorem emit_mem (e : Event) : (s.emit e).mem = s.mem := rfl
@[simp] theorem emit_v (e : Event) : (s.emit e).v = s.v := rfl
@[simp] theorem emit_i (e : Event) : (s.emit e).i = s.i := rfl
@[simp] theorem emit_pc (e : Event) : (s.emit e).pc = s.pc := rfl
@[simp] theorem emit_stack (e : Event) : (s.emit e).stack = s.stack := rfl
@[simp] theorem emit_sp (e : Event) : (s.emit e).sp = s.sp := rfl
@[simp] theorem emit_fb (e : Event) : (s.emit e).fb = s.fb := rfl
@[simp] theorem emit_dt (e : Event) : (s.emit e).dt = s.dt := rfl
@[simp] theorem emit_st (e : Event) : (s.emit e).st = s.st := rfl
@[simp] theorem emit_key (e : Event) : (s.emit e).key = s.key := rfl
@[simp] theorem emit_drawFlag (e : Event) : (s.emit e).drawFlag = s.drawFlag := rfl
@[simp] theorem emit_drawObs (e : Event) : (s.emit e).drawObs = s.drawObs := rfl
@[simp] theorem emit_soundObs (e : Event) : (s.emit e).soundObs = s.soundObs := rfl
@[simp] theorem emit_fault (e : Event) : (s.emit e).fault = s.fault := rfl
@[simp] theorem emit_fontset (e : Event) : (s.emit e).fontset = s.fontset := rfl
@[simp] theorem emit_rnd (e : Event) : (s.emit e).rnd = s.rnd := rfl
@[simp] theorem emit_cycles (e : Event) : (s.emit e).cycles = s.cycles := rfl
@[simp] theorem emit_events (e : Event) : (s.emit e).events = s.events ++ [e] := rfl

/-! ### clearEvents -/

@[simp] theorem clearEvents_mem : (s.clearEvents).mem = s.mem := rfl
@[simp] theorem clearEvents_v : (s.clearEvents).v = s.v := rfl
@[simp] theorem clearEvents_i : (s.clearEvents).i = s.i := rfl
@[simp] theorem clearEvents_pc : (s.clearEvents).pc = s.pc := rfl
@[simp] theorem clearEvents_stack : (s.clearEvents).stack = s.stack := rfl
@[simp] theorem clearEvents_sp : (s.clearEvents).sp = s.sp := rfl
@[simp] theorem clearEvents_fb : (s.clearEvents).fb = s.fb := rfl
@[simp] theorem clearEvents_dt : (s.clearEvents).dt = s.dt := rfl
@[simp] theorem clearEvents_st : (s.clearEvents).st = s.st := rfl
@[simp] theorem clearEvents_key : (s.clearEvents).key = s.key := rfl
@[simp] theorem clearEvents_drawFlag : (s.clearEvents).drawFlag = s.drawFlag := rfl
@[simp] theorem clearEvents_drawObs : (s.clearEvents).drawObs = s.drawObs := rfl
@[simp] theorem clearEvents_soundObs : (s.clearEvents).soundObs = s.soundObs := rfl
@[simp] theorem clearEvents_fault : (s.clearEvents).fault = s.fault := rfl
@[simp] theorem clearEvents_fontset : (s.clearEvents).fontset = s.fontset := rfl
@[simp] theorem clearEvents_rnd : (s.clearEvents).rnd = s.rnd := rfl
@[simp] theorem clearEvents_cycles : (s.clearEvents).cycles = s.cycles := rfl
@[simp] theorem clearEvents_events : (s.clearEvents).events = [] := rfl

/-! ### setPixel -/

@[simp] theorem setPixel_mem (r : Fin 32) (c : Fin 64) (b : Bool) :
    (s.setPixel r c b).mem = s.mem := rfl
@[simp] theorem setPixel_v (r : Fin 32) (c : Fin 64) (b : Bool) : (s.setPixel r c b).v = s.v := rfl
@[simp] theorem setPixel_i (r : Fin 32) (c : Fin 64) (b : Bool) : (s.setPixel r c b).i = s.i := rfl
@[simp] theorem setPixel_pc (r : Fin 32) (c : Fin 64) (b : Bool) :
    (s.setPixel r c b).pc = s.pc := rfl
@[simp] theorem setPixel_stack (r : Fin 32) (c : Fin 64) (b : Bool) :
    (s.setPixel r c b).stack = s.stack := rfl
@[simp] theorem setPixel_sp (r : Fin 32) (c : Fin 64) (b : Bool) :
    (s.setPixel r c b).sp = s.sp := rfl
@[simp] theorem setPixel_fb (r : Fin 32) (c : Fin 64) (b : Bool) :
    (s.setPixel r c b).fb = s.fb.set r.val (s.fb[r.val].set c.val b) := rfl
@[simp] theorem setPixel_dt (r : Fin 32) (c : Fin 64) (b : Bool) :
    (s.setPixel r c b).dt = s.dt := rfl
@[simp] theorem setPixel_st (r : Fin 32) (c : Fin 64) (b : Bool) :
    (s.setPixel r c b).st = s.st := rfl
@[simp] theorem setPixel_key (r : Fin 32) (c : Fin 64) (b : Bool) :
    (s.setPixel r c b).key = s.key := rfl
@[simp] theorem setPixel_drawFlag (r : Fin 32) (c : Fin 64) (b : Bool) :
    (s.setPixel r c b).drawFlag = s.drawFlag := rfl
@[simp] theorem setPixel_drawObs (r : Fin 32) (c : Fin 64) (b : Bool) :
    (s.setPixel r c b).drawObs = s.drawObs := rfl
@[simp] theorem setPixel_soundObs (r : Fin 32) (c : Fin 64) (b : Bool) :
    (s.setPixel r c b).soundObs = s.soundObs := rfl
@[simp] theorem setPixel_fault (r : Fin 32) (c : Fin 64) (b : Bool) :
    (s.setPixel r c b).fault = s.fault := rfl
@[simp] theorem setPixel_fontset (r : Fin 32) (c : Fin 64) (b : Bool) :
    (s.setPixel r c b).fontset = s.fontset := rfl
@[simp] theorem setPixel_rnd (r : Fin 32) (c : Fin 64) (b : Bool) :
    (s.setPixel r c b).rnd = s.rnd := rfl
@[simp] theorem setPixel_cycles (r : Fin 32) (c : Fin 64) (b : Bool) :
    (s.setPixel r c b).cycles = s.cycles := rfl
@[simp] theorem setPixel_events (r : Fin 32) (c : Fin 64) (b : Bool) :
    (s.setPixel r c b).events = s.events := rfl

/-! ### clearScreen -/

@[simp] theorem clearScreen_mem : (s.clearScreen).mem = s.mem := rfl
@[simp] theorem clearScreen_v : (s.clearScreen).v = s.v := rfl
@[simp] theorem clearScreen_i : (s.clearScreen).i = s.i := rfl
@[simp] theorem clearScreen_pc : (s.clearScreen).pc = s.pc := rfl
@[simp] theorem clearScreen_stack : (s.clearScreen).stack = s.stack := rfl
@[simp] theorem clearScreen_sp : (s.clearScreen).sp = s.sp := rfl
@[simp] theorem clearScreen_fb :
    (s.clearScreen).fb = Vector.replicate 32 (Vector.replicate 64 false) := rfl
@[simp] theorem clearScreen_dt : (s.clearScreen).dt = s.dt := rfl
@[simp] theorem clearScreen_st : (s.clearScreen).st = s.st := rfl
@[simp] theorem clearScreen_key : (s.clearScreen).key = s.key := rfl
@[simp] theorem clearScreen_drawFlag : (s.clearScreen).drawFlag = s.drawFlag := rfl
@[simp] theorem clearScreen_drawObs : (s.clearScreen).drawObs = s.drawObs := rfl
@[simp] theorem clearScreen_soundObs : (s.clearScreen).soundObs = s.soundObs := rfl
@[simp] theorem clearScreen_fault : (s.clearScreen).fault = s.fault := rfl
@[simp] theorem clearScreen_fontset : (s.clearScreen).fontset = s.fontset := rfl
@[simp] theorem clearScreen_rnd : (s.clearScreen).rnd = s.rnd := rfl
@[simp] theorem clearScreen_cycles : (s.clearScreen).cycles = s.cycles := rfl
@[simp] theorem clearScreen_events : (s.clearScreen).events = s.events := rfl

/-! ### enterFault -/

@[simp] theorem enterFault_mem (k : FaultKind) (a : Word) (op : Option Word) (info : Nat) :
    (s.enterFault k a op info).mem = s.mem := rfl
@[simp] theorem enterFault_v (k : FaultKind) (a : Word) (op : Option Word) (info : Nat) :
    (s.enterFault k a op info).v = s.v := rfl
@[simp] theorem enterFault_i (k : FaultKind) (a : Word) (op : Option Word) (info : Nat) :
    (s.enterFault k a op info).i = s.i := rfl
@[simp] theorem enterFault_pc (k : FaultKind) (a : Word) (op : Option Word) (info : Nat) :
    (s.enterFault k a op info).pc = a := rfl
@[simp] theorem enterFault_stack (k : FaultKind) (a : Word) (op : Option Word) (info : Nat) :
    (s.enterFault k a op info).stack = s.stack := rfl
@[simp] theorem enterFault_sp (k : FaultKind) (a : Word) (op : Option Word) (info : Nat) :
    (s.enterFault k a op info).sp = s.sp := rfl
@[simp] theorem enterFault_fb (k : FaultKind) (a : Word) (op : Option Word) (info : Nat) :
    (s.enterFault k a op info).fb = s.fb := rfl
@[simp] theorem enterFault_dt (k : FaultKind) (a : Word) (op : Option Word) (info : Nat) :
    (s.enterFault k a op info).dt = s.dt := rfl
@[simp] theorem enterFault_st (k : FaultKind) (a : Word) (op : Option Word) (info : Nat) :
    (s.enterFault k a op info).st = s.st := rfl
@[simp] theorem enterFault_key (k : FaultKind) (a : Word) (op : Option Word) (info : Nat) :
    (s.enterFault k a op info).key = s.key := rfl
@[simp] theorem enterFault_drawFlag (k : FaultKind) (a : Word) (op : Option Word) (info : Nat) :
    (s.enterFault k a op info).drawFlag = s.drawFlag := rfl
@[simp] theorem enterFault_drawObs (k : FaultKind) (a : Word) (op : Option Word) (info : Nat) :
    (s.enterFault k a op info).drawObs = s.drawObs := rfl
@[simp] theorem enterFault_soundObs (k : FaultKind) (a : Word) (op : Option Word) (info : Nat) :
    (s.enterFault k a op info).soundObs = s.soundObs := rfl
@[simp] theorem enterFault_fault (k : FaultKind) (a : Word) (op : Option Word) (info : Nat) :
    (s.enterFault k a op info).fault = some ⟨k, a, op, info⟩ := rfl
@[simp] theorem enterFault_fontset (k : FaultKind) (a : Word) (op : Option Word) (info : Nat) :
    (s.enterFault k a op info).fontset = s.fontset := rfl
@[simp] theorem enterFault_rnd (k : FaultKind) (a : Word) (op : Option Word) (info : Nat) :
    (s.enterFault k a op info).rnd = s.rnd := rfl
@[simp] theorem enterFault_cycles (k : FaultKind) (a : Word) (op : Option Word) (info : Nat) :
    (s.enterFault k a op info).cycles = s.cycles := rfl
@[simp] theorem enterFault_events (k : FaultKind) (a : Word) (op : Option Word) (info : Nat) :
    (s.enterFault k a op info).events = s.events ++ [.fault ⟨k, a, op, info⟩] := rfl

/-! ### raise -/

@[simp] theorem raise_mem (j : Instr) (k : FaultKind) (info : Nat) :
    (s.raise j k info).mem = s.mem := rfl
@[simp] theorem raise_v (j : Instr) (k : FaultKind) (info : Nat) :
    (s.raise j k info).v = s.v := rfl
@[simp] theorem raise_i (j : Instr) (k : FaultKind) (info : Nat) :
    (s.raise j k info).i = s.i := rfl
@[simp] theorem raise_pc (j : Instr) (k : FaultKind) (info : Nat) :
    (s.raise j k info).pc = s.pc - 2 := rfl
@[simp] theorem raise_stack (j : Instr) (k : FaultKind) (info : Nat) :
    (s.raise j k info).stack = s.stack := rfl
@[simp] theorem raise_sp (j : Instr) (k : FaultKind) (info : Nat) :
    (s.raise j k info).sp = s.sp := rfl
@[simp] theorem raise_fb (j : Instr) (k : FaultKind) (info : Nat) :
    (s.raise j k info).fb = s.fb := rfl
@[simp] theorem raise_dt (j : Instr) (k : FaultKind) (info : Nat) :
    (s.raise j k info).dt = s.dt := rfl
@[simp] theorem raise_st (j : Instr) (k : FaultKind) (info : Nat) :
    (s.raise j k info).st = s.st := rfl
@[simp] theorem raise_key (j : Instr) (k : FaultKind) (info : Nat) :
    (s.raise j k info).key = s.key := rfl
@[simp] theorem raise_drawFlag (j : Instr) (k : FaultKind) (info : Nat) :
    (s.raise j k info).drawFlag = s.drawFlag := rfl
@[simp] theorem raise_drawObs (j : Instr) (k : FaultKind) (info : Nat) :
    (s.raise j k info).drawObs = s.drawObs := rfl
@[simp] theorem raise_soundObs (j : Instr) (k : FaultKind) (info : Nat) :
    (s.raise j k info).soundObs = s.soundObs := rfl
@[simp] theorem raise_fault (j : Instr) (k : FaultKind) (info : Nat) :
    (s.raise j k info).fault = some ⟨k, s.pc - 2, some (encode j), info⟩ := rfl
@[simp] theorem raise_fontset (j : Instr) (k : FaultKind) (info : Nat) :
    (s.raise j k info).fontset = s.fontset := rfl
@[simp] theorem raise_rnd (j : Instr) (k : FaultKind) (info : Nat) :
    (s.raise j k info).rnd = s.rnd := rfl
@[simp] theorem raise_cycles (j : Instr) (k : FaultKind) (info : Nat) :
    (s.raise j k info).cycles = s.cycles := rfl
@[simp] theorem raise_events (j : Instr) (k : FaultKind) (info : Nat) :
    (s.raise j k info).events = s.events ++ [.fault ⟨k, s.pc - 2, some (encode j), info⟩] := rfl

/-! ### advance -/

@[simp] theorem advance_mem (r : RndArg) : (s.advance r).mem = s.mem := rfl
@[simp] theorem advance_v (r : RndArg) : (s.advance r).v = s.v := rfl
@[simp] theorem advance_i (r : RndArg) : (s.advance r).i = s.i := rfl
@[simp] theorem advance_pc (r : RndArg) : (s.advance r).pc = s.pc + 2 := rfl
@[simp] theorem advance_stack (r : RndArg) : (s.advance r).stack = s.stack := rfl
@[simp] theorem advance_sp (r : RndArg) : (s.advance r).sp = s.sp := rfl
@[simp] theorem advance_fb (r : RndArg) : (s.advance r).fb = s.fb := rfl
@[simp] theorem advance_dt (r : RndArg) : (s.advance r).dt = s.dt := rfl
@[simp] theorem advance_st (r : RndArg) : (s.advance r).st = s.st := rfl
@[simp] theorem advance_key (r : RndArg) : (s.advance r).key = s.key := rfl
@[simp] theorem advance_drawFlag (r : RndArg) : (s.advance r).drawFlag = s.drawFlag := rfl
@[simp] theorem advance_drawObs (r : RndArg) : (s.advance r).drawObs = s.drawObs := rfl
@[simp] theorem advance_soundObs (r : RndArg) : (s.advance r).soundObs = s.soundObs := rfl
@[simp] theorem advance_fault (r : RndArg) : (s.advance r).fault = s.fault := rfl
@[simp] theorem advance_fontset (r : RndArg) : (s.advance r).fontset = s.fontset := rfl
@[simp] theorem advance_rnd (r : RndArg) : (s.advance r).rnd = r := rfl
@[simp] theorem advance_cycles (r : RndArg) : (s.advance r).cycles = s.cycles + 1 := rfl
@[simp] theorem advance_events (r : RndArg) : (s.advance r).events = s.events := rfl

/-! ### skipIf -/

/-- `skipIf` as one record update. -/
theorem skipIf_eq (b : Bool) :
    s.skipIf b = { s with pc := if b then s.pc + 2 else s.pc } := by
  unfold State.skipIf; split <;> simp_all [State.setPc]

@[simp] theorem skipIf_mem (b : Bool) : (s.skipIf b).mem = s.mem := by
  rw [skipIf_eq]
@[simp] theorem skipIf_v (b : Bool) : (s.skipIf b).v = s.v := by
  rw [skipIf_eq]
@[simp] theorem skipIf_i (b : Bool) : (s.skipIf b).i = s.i := by
  rw [skipIf_eq]
@[simp] theorem skipIf_pc (b : Bool) : (s.skipIf b).pc = if b then s.pc + 2 else s.pc := by
  rw [skipIf_eq]
@[simp] theorem skipIf_stack (b : Bool) : (s.skipIf b).stack = s.stack := by
  rw [skipIf_eq]
@[simp] theorem skipIf_sp (b : Bool) : (s.skipIf b).sp = s.sp := by
  rw [skipIf_eq]
@[simp] theorem skipIf_fb (b : Bool) : (s.skipIf b).fb = s.fb := by
  rw [skipIf_eq]
@[simp] theorem skipIf_dt (b : Bool) : (s.skipIf b).dt = s.dt := by
  rw [skipIf_eq]
@[simp] theorem skipIf_st (b : Bool) : (s.skipIf b).st = s.st := by
  rw [skipIf_eq]
@[simp] theorem skipIf_key (b : Bool) : (s.skipIf b).key = s.key := by
  rw [skipIf_eq]
@[simp] theorem skipIf_drawFlag (b : Bool) : (s.skipIf b).drawFlag = s.drawFlag := by
  rw [skipIf_eq]
@[simp] theorem skipIf_drawObs (b : Bool) : (s.skipIf b).drawObs = s.drawObs := by
  rw [skipIf_eq]
@[simp] theorem skipIf_soundObs (b : Bool) : (s.skipIf b).soundObs = s.soundObs := by
  rw [skipIf_eq]
@[simp] theorem skipIf_fault (b : Bool) : (s.skipIf b).fault = s.fault := by
  rw [skipIf_eq]
@[simp] theorem skipIf_fontset (b : Bool) : (s.skipIf b).fontset = s.fontset := by
  rw [skipIf_eq]
@[simp] theorem skipIf_rnd (b : Bool) : (s.skipIf b).rnd = s.rnd := by
  rw [skipIf_eq]
@[simp] theorem skipIf_cycles (b : Bool) : (s.skipIf b).cycles = s.cycles := by
  rw [skipIf_eq]
@[simp] theorem skipIf_events (b : Bool) : (s.skipIf b).events = s.events := by
  rw [skipIf_eq]

/-! ### announceDraw -/

/-- `announceDraw` as one record update. -/
theorem announceDraw_eq :
    s.announceDraw = { s with drawFlag := true, events := if s.drawObs.isSome then s.events ++ [.draw s.screen Config.displayW Config.displayH] else s.events } := by
  unfold State.announceDraw; split <;> simp_all [State.emit, State.screen]

@[simp] theorem announceDraw_mem : (s.announceDraw).mem = s.mem := by
  rw [announceDraw_eq]
@[simp] theorem announceDraw_v : (s.announceDraw).v = s.v := by
  rw [announceDraw_eq]
@[simp] theorem announceDraw_i : (s.announceDraw).i = s.i := by
  rw [announceDraw_eq]
@[simp] theorem announceDraw_pc : (s.announceDraw).pc = s.pc := by
  rw [announceDraw_eq]
@[simp] theorem announceDraw_stack : (s.announceDraw).stack = s.stack := by
  rw [announceDraw_eq]
@[simp] theorem announceDraw_sp : (s.announceDraw).sp = s.sp := by
  rw [announceDraw_eq]
@[simp] theorem announceDraw_fb : (s.announceDraw).fb = s.fb := by
  rw [announceDraw_eq]
@[simp] theorem announceDraw_dt : (s.announceDraw).dt = s.dt := by
  rw [announceDraw_eq]
@[simp] theorem announceDraw_st : (s.announceDraw).st = s.st := by
  rw [announceDraw_eq]
@[simp] theorem announceDraw_key : (s.announceDraw).key = s.key := by
  rw [announceDraw_eq]
@[simp] theorem announceDraw_drawFlag : (s.announceDraw).drawFlag = true := by
  rw [announceDraw_eq]
@[simp] theorem announceDraw_drawObs : (s.announceDraw).drawObs = s.drawObs := by
  rw [announceDraw_eq]
@[simp] theorem announceDraw_soundObs : (s.announceDraw).soundObs = s.soundObs := by
  rw [announceDraw_eq]
@[simp] theorem announceDraw_fault : (s.announceDraw).fault = s.fault := by
  rw [announceDraw_eq]
@[simp] theorem announceDraw_fontset : (s.announceDraw).fontset = s.fontset := by
  rw [announceDraw_eq]
@[simp] theorem announceDraw_rnd : (s.announceDraw).rnd = s.rnd := by
  rw [announceDraw_eq]
@[simp] theorem announceDraw_cycles : (s.announceDraw).cycles = s.cycles := by
  rw [announceDraw_eq]
@[simp] theorem announceDraw_events :
    (s.announceDraw).events =
      if s.drawObs.isSome then s.events ++ [.draw s.screen Config.displayW Config.displayH] else s.events := by
  rw [announceDraw_eq]

/-! ### timerStep -/

/-- `timerStep` as one record update. -/
theorem timerStep_eq :
    s.timerStep = { s with dt := countDown s.dt, st := countDown s.st, events := if s.st = 1 ∧ s.soundObs.isSome then s.events ++ [.sound] else s.events } := by
  unfold State.timerStep; split <;> simp_all [State.emit]

@[simp] theorem timerStep_mem : (s.timerStep).mem = s.mem := by
  rw [timerStep_eq]
@[simp] theorem timerStep_v : (s.timerStep).v = s.v := by
  rw [timerStep_eq]
@[simp] theorem timerStep_i : (s.timerStep).i = s.i := by
  rw [timerStep_eq]
@[simp] theorem timerStep_pc : (s.timerStep).pc = s.pc := by
  rw [timerStep_eq]
@[simp] theorem timerStep_stack : (s.timerStep).stack = s.stack := by
  rw [timerStep_eq]
@[simp] theorem timerStep_sp : (s.timerStep).sp = s.sp := by
  rw [timerStep_eq]
@[simp] theorem timerStep_fb : (s.timerStep).fb = s.fb := by
  rw [timerStep_eq]
@[simp] theorem timerStep_dt : (s.timerStep).dt = countDown s.dt := by
  rw [timerStep_eq]
@[simp] theorem timerStep_st : (s.timerStep).st = countDown s.st := by
  rw [timerStep_eq]
@[simp] theorem timerStep_key : (s.timerStep).key = s.key := by
  rw [timerStep_eq]
@[simp] theorem timerStep_drawFlag : (s.timerStep).drawFlag = s.drawFlag := by
  rw [timerStep_eq]
@[simp] theorem timerStep_drawObs : (s.timerStep).drawObs = s.drawObs := by
  rw [timerStep_eq]
@[simp] theorem timerStep_soundObs : (s.timerStep).soundObs = s.soundObs := by
  rw [timerStep_eq]
@[simp] theorem timerStep_fault : (s.timerStep).fault = s.fault := by
  rw [timerStep_eq]
@[simp] theorem timerStep_fontset : (s.timerStep).fontset = s.fontset := by
  rw [timerStep_eq]
@[simp] theorem timerStep_rnd : (s.timerStep).rnd = s.rnd := by
  rw [timerStep_eq]
@[simp] theorem timerStep_cycles : (s.timerStep).cycles = s.cycles := by
  rw [timerStep_eq]
@[simp] theorem timerStep_events :
    (s.timerStep).events =
      if s.st = 1 ∧ s.soundObs.isSome then s.events ++ [.sound] else s.events := by
  rw [timerStep_eq]

end Sys2Proof.Laws
end

