-- ==== Sys2Proof/Laws/Memory.lean ====
section
/-! SUPPORT. Memory: reading back what was written, and the canonical form, which every memory operation
keeps. -/

namespace Sys2Proof.Laws
open Sys2Proof.Machine

variable (fontset : Vector Byte 80)

/-! ### Reading after listing and unlisting a byte -/

theorem read_insert (m : Memory) (a : Nat) (w : Byte) (b : Nat) :
    Memory.read fontset (Memory.insert m a w) b = if b = a then w else Memory.read fontset m b := by
  induction m with
  | nil => simp [Memory.insert, Memory.read]
  | cons c rest ih =>
    obtain ⟨d, u⟩ := c
    unfold Memory.insert
    split
    · simp [Memory.read]
    · split
      · subst d; simp only [Memory.read]; split <;> rfl
      · simp only [Memory.read, ih]
        split
        · rw [if_neg (by omega)]
        · rfl

theorem read_erase (m : Memory) (a b : Nat) :
    Memory.read fontset (Memory.erase m a) b =
      if b = a then Memory.unlisted fontset b else Memory.read fontset m b := by
  induction m with
  | nil => simp [Memory.erase, Memory.read]
  | cons c rest ih =>
    obtain ⟨d, u⟩ := c
    unfold Memory.erase at ih ⊢
    by_cases hd : d = a
    · subst d; simp only [List.filter_cons, bne_self_eq_false, Memory.read]
      rw [if_neg (by simp), ih]
      split <;> rfl
    · rw [List.filter_cons_of_pos (by simpa using hd)]
      simp only [Memory.read, ih]
      split
      · rw [if_neg (by omega)]
      · rfl

/-- Reading after a write: the byte written at its address, every other byte as before. -/
theorem read_write (m : Memory) (a : Nat) (w : Byte) (b : Nat) :
    Memory.read fontset (Memory.write fontset m a w) b =
      if b = a then w else Memory.read fontset m b := by
  unfold Memory.write
  split
  · rw [read_erase]; split <;> simp_all
  · exact read_insert fontset m a w b

/-! ### The canonical form -/

theorem mem_insert {m : Memory} {a : Nat} {w : Byte} {c : Host.Cell}
    (h : c ∈ Memory.insert m a w) : c = (a, w) ∨ c ∈ m := by
  induction m with
  | nil => simpa [Memory.insert] using h
  | cons d rest ih =>
    unfold Memory.insert at h
    split at h
    · simpa using h
    · split at h
      · rcases List.mem_cons.1 h with h | h
        · exact .inl h
        · exact .inr (List.mem_cons_of_mem _ h)
      · rcases List.mem_cons.1 h with h | h
        · exact .inr (h ▸ List.mem_cons_self)
        · exact (ih h).imp_right (List.mem_cons_of_mem _)

theorem insert_rising {m : Memory} (a : Nat) (w : Byte)
    (h : m.Pairwise (fun c d => c.1 < d.1)) :
    (Memory.insert m a w).Pairwise (fun c d => c.1 < d.1) := by
  induction m with
  | nil => simp [Memory.insert]
  | cons d rest ih =>
    obtain ⟨hd, hrest⟩ := List.pairwise_cons.1 h
    unfold Memory.insert
    split
    · rename_i hlt
      refine List.pairwise_cons.2 ⟨fun c hc => ?_, h⟩
      rcases List.mem_cons.1 hc with rfl | hc
      · exact hlt
      · exact Nat.lt_trans hlt (hd c hc)
    · split
      · rename_i heq
        exact List.pairwise_cons.2 ⟨fun c hc => heq ▸ hd c hc, hrest⟩
      · refine List.pairwise_cons.2 ⟨fun c hc => ?_, ih hrest⟩
        rcases mem_insert hc with rfl | hc
        · simp only; omega
        · exact hd c hc

/-- A write to an address of memory keeps the canonical form. -/
theorem write_wf {m : Memory} {a : Nat} {w : Byte} (h : Memory.wf fontset m)
    (ha : a < Config.memSize) : Memory.wf fontset (Memory.write fontset m a w) := by
  unfold Memory.write
  split
  · exact ⟨h.1.filter _, fun c hc => h.2 c (List.mem_of_mem_filter hc)⟩
  · rename_i hw
    refine ⟨insert_rising a w h.1, fun c hc => ?_⟩
    rcases mem_insert hc with rfl | hc
    · exact ⟨ha, hw⟩
    · exact h.2 c hc

/-! ### Bytes and blocks of the state -/

/-- Reading after a one-byte store. -/
@[simp] theorem readByte_writeByte (s : State) (a : Nat) (w : Byte) (b : Nat) :
    (s.writeByte a w).readByte b = if b = a then w else s.readByte b :=
  read_write s.fontset s.mem a w b

/-- A block store is an update of memory alone. -/
theorem storeBytes_eq (s : State) (base : Nat) (ws : List Byte) :
    s.storeBytes base ws = { s with mem := (s.storeBytes base ws).mem } := by
  induction ws generalizing s base with
  | nil => rfl
  | cons w rest ih => rw [State.storeBytes, ih]; rfl

/-- Reading after a block store: the k-th byte stored at base + k, every other byte as before. -/
theorem readByte_storeBytes (s : State) (base : Nat) (ws : List Byte) (a : Nat) :
    (s.storeBytes base ws).readByte a =
      if h : base ≤ a ∧ a < base + ws.length then ws[a - base] else s.readByte a := by
  induction ws generalizing s base with
  | nil => rw [dif_neg (by simp)]; rfl
  | cons w rest ih =>
    rw [State.storeBytes, ih, readByte_writeByte]
    by_cases ha : a = base
    · subst ha; simp
    · by_cases h : base + 1 ≤ a ∧ a < base + 1 + rest.length
      · rw [dif_pos h, dif_pos (by simp; omega)]
        simp only [show a - base = (a - (base + 1)) + 1 by omega, List.getElem_cons_succ]
      · rw [dif_neg h, dif_neg (by simp; omega), if_neg ha]

/-- A block store inside memory keeps the canonical form. -/
theorem storeBytes_wf (s : State) (base : Nat) (ws : List Byte)
    (h : Memory.wf s.fontset s.mem) (hb : base + ws.length ≤ Config.memSize) :
    Memory.wf s.fontset (s.storeBytes base ws).mem := by
  induction ws generalizing s base with
  | nil => exact h
  | cons w rest ih =>
    simp only [List.length_cons] at hb
    exact ih (s.writeByte base w) (base + 1) (write_wf s.fontset h (by omega)) (by omega)

/-- A register-block load reads byte base + k into V[k] for k up to x. -/
theorem reg_loadRegs (s : State) (base : Nat) (x k : Reg) :
    (s.loadRegs base x).reg k = if k ≤ x then s.readByte (base + k.val) else s.reg k := by
  simp [State.loadRegs, State.reg]

/-! ### The address check -/

/-- The check in closed form: it passes for an empty block and for one inside memory, and else answers
the lowest address of the block that is 4096 or more. -/
theorem firstOutside_eq (base n : Nat) :
    firstOutside base n = if n = 0 ∨ base + n ≤ 4096 then none else some (max base 4096) := by
  induction n with
  | zero => simp [firstOutside]
  | succ n ih =>
    unfold firstOutside at ih ⊢
    rw [List.range_succ, List.map_append, List.find?_append, ih]
    simp only [List.map_cons, List.map_nil, List.find?_singleton, decide_eq_true_eq,
      show Config.memSize = 4096 from rfl]
    by_cases h : base + (n + 1) ≤ 4096
    · rw [if_pos (by omega), if_neg (by omega), if_pos (by omega)]; rfl
    · rw [if_neg (by omega : ¬(n + 1 = 0 ∨ _))]
      by_cases h' : n = 0 ∨ base + n ≤ 4096
      · rw [if_pos h', if_pos (by omega), Option.none_or, show max base 4096 = base + n by omega]
      · rw [if_neg h']; rfl

theorem firstOutside_none {base n : Nat} :
    firstOutside base n = none ↔ n = 0 ∨ base + n ≤ 4096 := by
  rw [firstOutside_eq]; split <;> simp_all

theorem firstOutside_some {base n a : Nat} :
    firstOutside base n = some a ↔ a = max base 4096 ∧ 0 < n ∧ 4096 < base + n := by
  rw [firstOutside_eq]
  split
  · simp; omega
  · simp only [Option.some.injEq]; omega

/-- Fetch in closed form (R83): the first of pc and pc + 1 outside memory, or the big-endian word. -/
theorem fetch_eq (s : State) :
    s.fetch = if s.pc.toNat ≤ 0xFFE
      then .ok (wordOfBytes (s.readByte s.pc.toNat) (s.readByte (s.pc.toNat + 1)))
      else .error (max s.pc.toNat 4096) := by
  unfold State.fetch
  rw [firstOutside_eq]
  by_cases h : s.pc.toNat ≤ 0xFFE
  · rw [if_pos (by omega), if_pos h]
  · rw [if_neg (by omega), if_neg h]

end Sys2Proof.Laws
end

