-- ==== Sys2Proof/Laws/Registers.lean ====
section
/-! SUPPORT. Registers, pixels, keys and the call stack: reading back what was written, and one lemma for
each shared operation that says everything it can answer. -/

namespace Sys2Proof.Laws
open Sys2Proof.Machine

/-! ### Registers -/

theorem reg_setReg (s : State) (r : Reg) (w : Byte) (k : Reg) :
    (s.setReg r w).reg k = if k = r then w else s.reg k := by
  simp only [State.reg, setReg_v, Vector.getElem_set, Fin.ext_iff, eq_comm]

@[simp] theorem reg_setReg_same (s : State) (r : Reg) (w : Byte) : (s.setReg r w).reg r = w := by
  rw [reg_setReg, if_pos rfl]

/-- A flag-writing update (R211): VF holds the flag, whichever x is. -/
theorem reg_setRegFlag (s : State) (x : Reg) (r f : Byte) (k : Reg) :
    (s.setRegFlag x r f).reg k = if k = vf then f else if k = x then r else s.reg k := by
  rw [State.setRegFlag, reg_setReg, reg_setReg]

/-- Two states with the same registers one by one have the same register file. -/
theorem v_ext {v w : Vector Byte 16} (h : ∀ k : Reg, v[k.val] = w[k.val]) : v = w :=
  Vector.ext fun k hk => h ⟨k, hk⟩

/-! ### Framebuffer -/

theorem pixel_setPixel (s : State) (r r' : Fin 32) (c c' : Fin 64) (b : Bool) :
    (s.setPixel r c b).pixel r' c' = if r' = r ∧ c' = c then b else s.pixel r' c' := by
  change (s.fb.set r.val (s.fb[r.val].set c.val b))[r'.val][c'.val] = _
  by_cases hr : r' = r
  · subst hr
    by_cases hc : c' = c
    · subst hc; simp
    · have : c.val ≠ c'.val := fun h => hc (Fin.ext h.symm)
      simp [hc, this, State.pixel]
  · have : r.val ≠ r'.val := fun h => hr (Fin.ext h.symm)
    simp [hr, this, State.pixel]

@[simp] theorem pixel_clearScreen (s : State) (r : Fin 32) (c : Fin 64) :
    s.clearScreen.pixel r c = false := by
  simp [State.pixel]

/-- Two framebuffers with the same pixels are the same. -/
theorem fb_ext {f g : Vector (Vector Bool 64) 32}
    (h : ∀ (r : Fin 32) (c : Fin 64), f[r.val][c.val] = g[r.val][c.val]) : f = g :=
  Vector.ext fun r hr => Vector.ext fun c hc => h ⟨r, hr⟩ ⟨c, hc⟩

/-! ### Call stack -/

/-- Everything a push can answer (R40, R174). -/
theorem push_eq (s : State) (w : Word) :
    (16 ≤ s.sp.val ∧ s.push w = none) ∨
      ∃ h : s.sp.val < 16, s.push w =
        some { s with stack := s.stack.set s.sp.val w, sp := ⟨s.sp.val + 1, by omega⟩ } := by
  by_cases h : s.sp.val < 16
  · exact .inr ⟨h, by rw [State.push, dif_pos h]⟩
  · exact .inl ⟨by omega, by rw [State.push, dif_neg h]⟩

/-- Everything a pop can answer (R40, R171). -/
theorem pop_eq (s : State) :
    (s.sp.val = 0 ∧ s.pop = none) ∨
      ∃ _ : s.sp.val ≠ 0, s.pop =
        some (s.stack[s.sp.val - 1], { s with sp := ⟨s.sp.val - 1, by omega⟩ }) := by
  by_cases h : s.sp.val = 0
  · exact .inl ⟨h, by rw [State.pop, dif_pos h]⟩
  · exact .inr ⟨h, by rw [State.pop, dif_neg h]⟩

/-! ### Keypad -/

/-- Everything a read of a numbered key can answer (R280, R282). -/
theorem keyNumbered_eq (s : State) (k : Byte) :
    (15 < k.toNat ∧ s.keyNumbered k = none) ∨
      ∃ h : k.toNat < 16, s.keyNumbered k = some s.key[k.toNat] := by
  by_cases h : k.toNat < 16
  · exact .inr ⟨h, by rw [State.keyNumbered, dif_pos h]⟩
  · exact .inl ⟨by omega, by rw [State.keyNumbered, dif_neg h]⟩

theorem lowestKeyDown_none {s : State} :
    s.lowestKeyDown = none ↔ ∀ k : Fin 16, s.key[k.val] = false := by
  simp [State.lowestKeyDown]

/-- The key found is down and every lower one is up (R291). -/
theorem lowestKeyDown_some {s : State} {k : Fin 16} :
    s.lowestKeyDown = some k ↔ s.key[k.val] = true ∧ ∀ j < k, s.key[j.val] = false := by
  rw [State.lowestKeyDown, ← Fin.find?_eq_find?_finRange, Fin.find?_eq_some_iff]

end Sys2Proof.Laws
end

