-- ==== Sys2Proof/Laws/Draw.lean ====
section
/-! SUPPORT. Drawing a sprite (45_draw.md R260 to R263), pixel by pixel: each pixel under a set sprite bit is
toggled once, VF tells whether one of them was set, and nothing else changes. -/

namespace Sys2Proof.Laws
open Sys2Proof.Machine

/-- What drawing may change: the framebuffer and VF. -/
def OnlyDraws (s t : State) : Prop :=
  t = { s with v := t.v, fb := t.fb } ∧ ∀ k, k ≠ vf → t.reg k = s.reg k

theorem OnlyDraws.refl (s : State) : OnlyDraws s s := ⟨rfl, fun _ _ => rfl⟩

theorem OnlyDraws.trans {s t u : State} (h : OnlyDraws s t) (h' : OnlyDraws t u) : OnlyDraws s u :=
  ⟨h'.1.trans (by rw [h.1]), fun k hk => (h'.2 k hk).trans (h.2 k hk)⟩

/-- Drawing does not change memory. -/
theorem OnlyDraws.readByte {s t : State} (h : OnlyDraws s t) (a : Nat) :
    t.readByte a = s.readByte a := by rw [h.1]; rfl

theorem flipPixel_onlyDraws (s : State) (r : Fin 32) (c : Fin 64) :
    OnlyDraws s (s.flipPixel r c) := by
  unfold State.flipPixel
  split
  · exact ⟨rfl, fun k hk => by
      change (s.setReg vf 1).reg k = _
      rw [reg_setReg, if_neg hk]⟩
  · exact ⟨rfl, fun _ _ => rfl⟩

theorem pixel_flipPixel (s : State) (r r' : Fin 32) (c c' : Fin 64) :
    (s.flipPixel r c).pixel r' c' = (s.pixel r' c' ^^ decide (r' = r ∧ c' = c)) := by
  have h : ∀ t : State, t.fb = s.fb → t.pixel r' c' = s.pixel r' c' :=
    fun t ht => by rw [State.pixel, ht]; rfl
  unfold State.flipPixel
  rw [pixel_setPixel]
  by_cases hp : r' = r ∧ c' = c
  · rw [if_pos hp, hp.1, hp.2]; simp
  · rw [if_neg hp, h _ (by split <;> rfl)]; simp [hp]

theorem vf_flipPixel (s : State) (r : Fin 32) (c : Fin 64) :
    (s.flipPixel r c).reg vf = if s.pixel r c then 1 else s.reg vf := by
  unfold State.flipPixel
  split
  · exact reg_setReg_same s vf 1
  · rfl

/-! ### One sprite byte -/

/-- The first m bits of a sprite byte. -/
def drawBits (px : Byte) (r : Fin 32) (b : Byte) (m : Nat) (s : State) : State :=
  (List.range m).foldl
    (fun t bit => if b.getLsbD (7 - bit) then t.flipPixel r (spriteColumn px bit) else t) s

theorem drawBits_succ (px : Byte) (r : Fin 32) (b : Byte) (m : Nat) (s : State) :
    drawBits px r b (m + 1) s =
      if b.getLsbD (7 - m) then (drawBits px r b m s).flipPixel r (spriteColumn px m)
      else drawBits px r b m s := by
  simp [drawBits, List.range_succ]

theorem drawBits_onlyDraws (px : Byte) (r : Fin 32) (b : Byte) (m : Nat) (s : State) :
    OnlyDraws s (drawBits px r b m s) := by
  induction m with
  | zero => exact .refl s
  | succ m ih =>
    rw [drawBits_succ]
    split
    · exact ih.trans (flipPixel_onlyDraws _ _ _)
    · exact ih

theorem spriteColumn_inj {px : Byte} {j k : Nat} (hj : j < 8) (hk : k < 8)
    (h : spriteColumn px j = spriteColumn px k) : j = k := by
  have := congrArg Fin.val h
  simp only [spriteColumn, Fin.val_ofNat] at this
  omega

theorem pixel_drawBits (px : Byte) (r : Fin 32) (b : Byte) (m : Nat) (hm : m ≤ 8) (s : State)
    (r' : Fin 32) (c : Fin 64) :
    (drawBits px r b m s).pixel r' c =
      (s.pixel r' c ^^
        decide (r' = r ∧ ∃ bit < m, b.getLsbD (7 - bit) = true ∧ c = spriteColumn px bit)) := by
  induction m with
  | zero => simp [drawBits]
  | succ m ih =>
    have step : (∃ bit < m + 1, b.getLsbD (7 - bit) = true ∧ c = spriteColumn px bit) ↔
        (b.getLsbD (7 - m) = true ∧ c = spriteColumn px m) ∨
          ∃ bit < m, b.getLsbD (7 - bit) = true ∧ c = spriteColumn px bit := by
      constructor
      · rintro ⟨k, hk, h⟩
        rcases Nat.lt_succ_iff_lt_or_eq.1 hk with hk | rfl
        · exact .inr ⟨k, hk, h⟩
        · exact .inl h
      · rintro (h | ⟨k, hk, h⟩)
        · exact ⟨m, by omega, h⟩
        · exact ⟨k, by omega, h⟩
    rw [drawBits_succ]
    simp only [step]
    split
    · rename_i hb
      rw [pixel_flipPixel, ih (by omega)]
      by_cases hc : c = spriteColumn px m
      · have hno : ¬ ∃ bit < m, b.getLsbD (7 - bit) = true ∧ c = spriteColumn px bit := by
          rintro ⟨k, hk, -, h⟩
          exact absurd (spriteColumn_inj (by omega) (by omega) (h.symm.trans hc)) (by omega)
        rw [decide_eq_false (fun h => hno h.2)]
        simp [hb, hc]
      · simp [hc]
    · rename_i hb
      rw [ih (by omega)]
      simp [hb]

theorem vf_drawBits (px : Byte) (r : Fin 32) (b : Byte) (m : Nat) (hm : m ≤ 8) (s : State) :
    (drawBits px r b m s).reg vf =
      if ∃ bit < m, b.getLsbD (7 - bit) = true ∧ s.pixel r (spriteColumn px bit) = true
      then 1 else s.reg vf := by
  induction m with
  | zero => simp [drawBits]
  | succ m ih =>
    have hpix : (drawBits px r b m s).pixel r (spriteColumn px m) = s.pixel r (spriteColumn px m) := by
      rw [pixel_drawBits _ _ _ _ (by omega)]
      have : ¬ ∃ bit < m, b.getLsbD (7 - bit) = true ∧ spriteColumn px m = spriteColumn px bit := by
        rintro ⟨k, hk, -, h⟩
        exact absurd (spriteColumn_inj (by omega) (by omega) h) (by omega)
      simp [this]
    have step : (∃ bit < m + 1, b.getLsbD (7 - bit) = true ∧ s.pixel r (spriteColumn px bit) = true) ↔
        (b.getLsbD (7 - m) = true ∧ s.pixel r (spriteColumn px m) = true) ∨
          ∃ bit < m, b.getLsbD (7 - bit) = true ∧ s.pixel r (spriteColumn px bit) = true := by
      constructor
      · rintro ⟨k, hk, h⟩
        rcases Nat.lt_succ_iff_lt_or_eq.1 hk with hk | rfl
        · exact .inr ⟨k, hk, h⟩
        · exact .inl h
      · rintro (h | ⟨k, hk, h⟩)
        · exact ⟨m, by omega, h⟩
        · exact ⟨k, by omega, h⟩
    rw [drawBits_succ]
    simp only [step]
    split
    · rename_i hb
      rw [vf_flipPixel, hpix, ih (by omega)]
      by_cases hp : s.pixel r (spriteColumn px m) = true <;> simp [hp, hb]
    · rename_i hb
      rw [ih (by omega)]
      simp [hb]

/-! ### A whole sprite -/

theorem drawRows_succ (s : State) (px py : Byte) (base n : Nat) :
    s.drawRows px py base (n + 1) =
      drawBits px (spriteRow py n) ((s.drawRows px py base n).readByte (base + n)) 8
        (s.drawRows px py base n) := by
  simp [State.drawRows, List.range_succ, State.drawByte, drawBits]

/-- Drawing a sprite changes the framebuffer and VF and nothing else. -/
theorem drawRows_onlyDraws (s : State) (px py : Byte) (base n : Nat) :
    OnlyDraws s (s.drawRows px py base n) := by
  induction n with
  | zero => exact .refl s
  | succ n ih => rw [drawRows_succ]; exact ih.trans (drawBits_onlyDraws _ _ _ _ _)

theorem spriteRow_inj {py : Byte} {j k : Nat} (hj : j < 32) (hk : k < 32)
    (h : spriteRow py j = spriteRow py k) : j = k := by
  have := congrArg Fin.val h
  simp only [spriteRow, Fin.val_ofNat] at this
  omega

/-- A pixel after a sprite of n rows: toggled iff it lies under a set sprite bit. -/
theorem pixel_drawRows (s : State) (px py : Byte) (base n : Nat) (hn : n ≤ 32) (r : Fin 32)
    (c : Fin 64) :
    (s.drawRows px py base n).pixel r c =
      (s.pixel r c ^^ decide (spriteCovers s px py base n r c)) := by
  induction n with
  | zero => simp [State.drawRows, spriteCovers]
  | succ n ih =>
    rw [drawRows_succ, pixel_drawBits _ _ _ _ (Nat.le_refl 8), ih (by omega),
      (drawRows_onlyDraws s px py base n).readByte]
    have step : spriteCovers s px py base (n + 1) r c ↔
        spriteCovers s px py base n r c ∨ (r = spriteRow py n ∧ ∃ bit < 8,
          (s.readByte (base + n)).getLsbD (7 - bit) = true ∧ c = spriteColumn px bit) := by
      constructor
      · rintro ⟨k, hk, bit, hbit, h, hr, hc⟩
        rcases Nat.lt_succ_iff_lt_or_eq.1 hk with hk | rfl
        · exact .inl ⟨k, hk, bit, hbit, h, hr, hc⟩
        · exact .inr ⟨hr, bit, hbit, h, hc⟩
      · rintro (⟨k, hk, rest⟩ | ⟨hr, bit, hbit, h, hc⟩)
        · exact ⟨k, by omega, rest⟩
        · exact ⟨n, by omega, bit, hbit, h, hr, hc⟩
    simp only [step]
    by_cases hr : r = spriteRow py n
    · have hno : ¬ spriteCovers s px py base n r c := by
        rintro ⟨k, hk, -, -, -, h, -⟩
        exact absurd (spriteRow_inj (by omega) (by omega) (h.symm.trans hr)) (by omega)
      simp [hno]
    · simp [hr]

/-- VF after a sprite of n rows: 1 if a set sprite bit fell on a set pixel, else as before. -/
theorem vf_drawRows (s : State) (px py : Byte) (base n : Nat) (hn : n ≤ 32) :
    (s.drawRows px py base n).reg vf =
      if ∃ r c, spriteCovers s px py base n r c ∧ s.pixel r c = true then 1 else s.reg vf := by
  induction n with
  | zero => simp [State.drawRows, spriteCovers]
  | succ n ih =>
    rw [drawRows_succ, vf_drawBits _ _ _ _ (Nat.le_refl 8), ih (by omega),
      (drawRows_onlyDraws s px py base n).readByte]
    have hpix : ∀ bit, (s.drawRows px py base n).pixel (spriteRow py n) (spriteColumn px bit) =
        s.pixel (spriteRow py n) (spriteColumn px bit) := by
      intro bit
      rw [pixel_drawRows _ _ _ _ _ (by omega)]
      have : ¬ spriteCovers s px py base n (spriteRow py n) (spriteColumn px bit) := by
        rintro ⟨k, hk, -, -, -, h, -⟩
        exact absurd (spriteRow_inj (by omega) (by omega) h) (by omega)
      simp [this]
    simp only [hpix]
    have step : (∃ r c, spriteCovers s px py base (n + 1) r c ∧ s.pixel r c = true) ↔
        (∃ bit < 8, (s.readByte (base + n)).getLsbD (7 - bit) = true ∧
          s.pixel (spriteRow py n) (spriteColumn px bit) = true) ∨
        ∃ r c, spriteCovers s px py base n r c ∧ s.pixel r c = true := by
      constructor
      · rintro ⟨r, c, ⟨k, hk, bit, hbit, h, rfl, rfl⟩, hp⟩
        rcases Nat.lt_succ_iff_lt_or_eq.1 hk with hk | rfl
        · exact .inr ⟨_, _, ⟨k, hk, bit, hbit, h, rfl, rfl⟩, hp⟩
        · exact .inl ⟨bit, hbit, h, hp⟩
      · rintro (⟨bit, hbit, h, hp⟩ | ⟨r, c, ⟨k, hk, rest⟩, hp⟩)
        · exact ⟨_, _, ⟨n, by omega, bit, hbit, h, rfl, rfl⟩, hp⟩
        · exact ⟨r, c, ⟨k, by omega, rest⟩, hp⟩
    simp only [step]
    by_cases h1 : ∃ bit < 8, (s.readByte (base + n)).getLsbD (7 - bit) = true ∧
        s.pixel (spriteRow py n) (spriteColumn px bit) = true
    · rw [if_pos h1, if_pos (.inl h1)]
    · rw [if_neg h1]
      by_cases h2 : ∃ r c, spriteCovers s px py base n r c ∧ s.pixel r c = true
      · rw [if_pos h2, if_pos (.inr h2)]
      · rw [if_neg h2, if_neg (by rintro (h | h) <;> contradiction)]

end Sys2Proof.Laws
end

