-- ==== Sys2Proof/Laws/Step.lean ====
section
/-! SUPPORT. What one cycle and one step can do, said once, and the copy of the framebuffer. -/

namespace Sys2Proof.Laws
open Sys2Proof.Machine

/-! ### Cycle and step -/

/-- The state in which the instruction of a step executes. -/
def started (s : State) : State := s.clearEvents.advance (.free s.cycles)

/-- A faulted block does nothing in a cycle (R149). -/
theorem cycle_of_fault {s : State} (r : RndArg) (h : s.fault ≠ none) : cycle r s = .next s := by
  rw [cycle, if_pos (Option.isSome_iff_ne_none.2 h)]

/-- A fetch fault ends the cycle (R141). -/
theorem cycle_of_fetch_error {s : State} (r : RndArg) {a : Nat} (h : s.fault = none)
    (hf : s.fetch = .error a) : cycle r s = .next (s.enterFault .memBounds s.pc none a) := by
  rw [cycle, if_neg (by simp [h]), hf]

/-- Otherwise the decoded instruction executes, and the timer step follows (R140). -/
theorem cycle_of_fetch {s : State} (r : RndArg) {op : Word} (h : s.fault = none)
    (hf : s.fetch = .ok op) :
    cycle r s =
      match exec (decode op) (s.advance r) with
      | .next t => .next t.afterExecute
      | .fault f => .fault f
      | .refused f => .refused f := by
  cases hu : exec (decode op) (s.advance r) <;> simp [cycle, h, hf, hu]

@[simp] theorem fetch_clearEvents (s : State) : s.clearEvents.fetch = s.fetch := rfl

/-- Everything a cycle can do: nothing in a faulted block, a fetch fault, or the decoded instruction and
then the timer step. -/
theorem cycle_cases {r : RndArg} {s t : State} (h : cycle r s = .next t) :
    (s.fault ≠ none ∧ t = s) ∨
    (s.fault = none ∧ 0xFFE < s.pc.toNat ∧
      t = s.enterFault .memBounds s.pc none (max s.pc.toNat 4096)) ∨
    (s.fault = none ∧ ∃ op u, s.fetch = .ok op ∧ s.pc.toNat ≤ 0xFFE ∧
      exec (decode op) (s.advance r) = .next u ∧ t = u.afterExecute) := by
  by_cases hf : s.fault = none
  · by_cases hpc : s.pc.toNat ≤ 0xFFE
    · obtain ⟨op, hop⟩ : ∃ op, s.fetch = .ok op := ⟨_, (fetch_eq s).trans (if_pos hpc)⟩
      refine .inr (.inr ⟨hf, op, ?_⟩)
      rw [cycle_of_fetch r hf hop] at h
      cases hu : exec (decode op) (s.advance r) with
      | next u => rw [hu] at h; exact ⟨u, hop, hpc, rfl, by simpa using h.symm⟩
      | fault f => rw [hu] at h; cases h
      | refused f => rw [hu] at h; cases h
    · rw [cycle_of_fetch_error r hf ((fetch_eq s).trans (if_neg hpc))] at h
      exact .inr (.inl ⟨hf, by omega, by simpa using h.symm⟩)
  · rw [cycle_of_fault r hf] at h
    exact .inl ⟨hf, by simpa using h.symm⟩

/-- Everything a step can do: it is a cycle with a free random byte and an empty event list at its start. -/
theorem step_cases {s t : State} (h : step s = .next t) :
    (s.fault ≠ none ∧ t = s.clearEvents) ∨
    (s.fault = none ∧ 0xFFE < s.pc.toNat ∧
      t = s.clearEvents.enterFault .memBounds s.pc none (max s.pc.toNat 4096)) ∨
    (s.fault = none ∧ ∃ op u, s.fetch = .ok op ∧ s.pc.toNat ≤ 0xFFE ∧
      exec (decode op) (started s) = .next u ∧ t = u.afterExecute) :=
  cycle_cases (s := s.clearEvents) h

/-- The end of a cycle: the timer step, or nothing after a fault. -/
theorem afterExecute_eq (t : State) :
    (t.fault = none ∧ t.afterExecute = t.timerStep) ∨
      (t.fault ≠ none ∧ t.afterExecute = t) := by
  unfold State.afterExecute
  cases h : t.fault <;> simp

@[simp] theorem afterExecute_fault (t : State) : t.afterExecute.fault = t.fault := by
  rcases afterExecute_eq t with ⟨-, h⟩ | ⟨-, h⟩ <;> simp [h]

/-- Observers that call nothing leave a cycle as it is. -/
@[simp] theorem observedCycle_nil (r : RndArg) (s : State) : observedCycle r [] s = cycle r s := by
  unfold observedCycle
  cases cycle r s <;> simp [observerCalls]

/-! ### The copy of the framebuffer -/

/-- Row-major concatenation of rows of 64 entries: entry c of row r stands at r * 64 + c. -/
theorem flatMap_rows (rows : List (Vector Bool 64)) (r c : Nat) (hc : c < 64) :
    (rows.flatMap (fun row => row.toList.map pixelByte))[r * 64 + c]? =
      rows[r]?.map (fun row => pixelByte row[c]) := by
  induction rows generalizing r with
  | nil => simp
  | cons row rest ih =>
    rw [List.flatMap_cons]
    cases r with
    | zero => simp [List.getElem?_append, hc]
    | succ r =>
      rw [List.getElem?_append_right (by simp; omega)]
      simp only [List.length_map, Vector.length_toList, List.getElem?_cons_succ, ← ih]
      congr 1; omega

theorem screen_length (s : State) : s.screen.length = 2048 := by
  simp [State.screen, List.length_flatMap]

/-- Pixel (r, c) is byte r * 64 + c of the copy (R43). -/
theorem screen_getElem? (s : State) (r : Fin 32) (c : Fin 64) :
    s.screen[r.val * 64 + c.val]? = some (pixelByte (s.pixel r c)) := by
  simp [State.screen, flatMap_rows, State.pixel]

/-- The copy of a clear framebuffer is 2048 zero bytes. -/
theorem screen_clearScreen (s : State) : s.clearScreen.screen = List.replicate 2048 0 := by
  simp [State.screen, pixelByte]

/-- The copy depends on the framebuffer alone. -/
theorem screen_congr {s t : State} (h : s.fb = t.fb) : s.screen = t.screen := by
  rw [State.screen, h]; rfl

end Sys2Proof.Laws
end

