-- ==== Sys2Proof/Laws/Exec.lean ====
section
/-! SUPPORT. Everything an instruction can do, said once: whole-machine statements follow from it without
looking at the meanings again. -/

namespace Sys2Proof.Laws
open Sys2Proof.Machine

/-- The values of pc that an instruction other than RET leaves, from pc = A + 2. -/
def NextPc (s : State) (pc : Word) : Prop :=
  pc = s.pc ∨ pc = s.pc + 2 ∨ pc = s.pc - 2 ∨ pc.toNat ≤ 0x10FE

/-- The instruction writes no timer: it is neither LD DT, Vx nor LD ST, Vx (R41). -/
def LeavesTimers (i : Instr) : Prop := ∀ x, i ≠ .ldDTVx x ∧ i ≠ .ldSTVx x

/-- The ways an instruction changes the state. -/
inductive Effect (s : State) : Instr → State → Prop where
  /-- It faults (R322, R323). -/
  | raises (i : Instr) (kind : FaultKind) (info : Nat) : Effect s i (s.raise i kind info)
  /-- It writes V, I and pc at most. -/
  | registers (i : Instr) (v : Vector Byte 16) (idx pc : Word) (hi : LeavesTimers i) (h : NextPc s pc) :
      Effect s i { s with v := v, i := idx, pc := pc }
  /-- LD DT, Vx. -/
  | delay (x : Reg) : Effect s (.ldDTVx x) (s.setDt (s.reg x))
  /-- LD ST, Vx. -/
  | sound (x : Reg) : Effect s (.ldSTVx x) (s.setSt (s.reg x))
  /-- CALL. -/
  | call (nnn : Addr12) (h : s.sp.val < 16) : Effect s (.callAddr nnn)
      { s with stack := s.stack.set s.sp.val s.pc, sp := ⟨s.sp.val + 1, by omega⟩, pc := addrWord nnn }
  /-- RET. -/
  | ret (z : Nibble) (h : s.sp.val ≠ 0) : Effect s (.ret z)
      { s with sp := ⟨s.sp.val - 1, by omega⟩, pc := s.stack[s.sp.val - 1] }
  /-- CLS. -/
  | cls (z : Nibble) : Effect s (.cls z) s.clearScreen.announceDraw
  /-- DRW. -/
  | drw (x y : Reg) (n : Nibble) (u : State) (h : OnlyDraws (s.setReg vf 0) u) :
      Effect s (.drw x y n) u.announceDraw
  /-- LD B, Vx. -/
  | digits (x : Reg) (h : s.i.toNat + 3 ≤ 4096) :
      Effect s (.ldB x) (s.storeBytes s.i.toNat (bcdDigits (s.reg x)))
  /-- LD [I], Vx. -/
  | block (x : Reg) (h : s.i.toNat + (x.val + 1) ≤ 4096) :
      Effect s (.storeRegs x) (s.storeBytes s.i.toNat (s.regsUpTo x))
  /-- An unimplemented opcode. -/
  | diag (op : Word) : Effect s (.unimplemented op) (s.emit (.diag op))

/-- A zero-extended nnn is at most 0xFFF. -/
theorem addrWord_toNat (nnn : Addr12) : (addrWord nnn).toNat = nnn.toNat := by
  simp only [addrWord, BitVec.toNat_setWidth]
  have := nnn.isLt
  omega

/-- The target of JP V0, addr is the exact sum (R241). -/
theorem jpV0_toNat (nnn : Addr12) (b : Byte) :
    (addrWord nnn + byteWord b).toNat = nnn.toNat + b.toNat := by
  have h1 := nnn.isLt
  have h2 := b.isLt
  rw [BitVec.toNat_add, addrWord_toNat]
  simp only [byteWord, BitVec.toNat_setWidth]
  omega

theorem skipIf_effect (s : State) (i : Instr) (b : Bool) (hi : LeavesTimers i) : Effect s i (s.skipIf b) := by
  rw [skipIf_eq]
  exact .registers i s.v s.i _ hi (by cases b <;> simp [NextPc])

theorem setReg_effect (s : State) (i : Instr) (x : Reg) (w : Byte) (hi : LeavesTimers i) :
    Effect s i (s.setReg x w) :=
  .registers i _ s.i s.pc hi (.inl rfl)

theorem setRegFlag_effect (s : State) (i : Instr) (x : Reg) (r f : Byte) (hi : LeavesTimers i) :
    Effect s i (s.setRegFlag x r f) :=
  .registers i _ s.i s.pc hi (.inl rfl)

/-- Every instruction answers a next state, by one of the effects above. -/
theorem exec_effect (i : Instr) (s : State) : ∃ t, exec i s = .next t ∧ Effect s i t := by
  cases i
  case cls z => exact ⟨_, rfl, .cls z⟩
  case ret z =>
    rcases pop_eq s with ⟨-, e⟩ | ⟨h, e⟩
    · exact ⟨_, by rw [exec, execRet, e], .raises _ _ _⟩
    · exact ⟨_, by rw [exec, execRet, e]; rfl, .ret z h⟩
  case sys nnn => exact ⟨_, rfl, .registers _ s.v s.i s.pc (by simp [LeavesTimers]) (.inl rfl)⟩
  case jpAddr nnn =>
    exact ⟨_, rfl, .registers _ s.v s.i _ (by simp [LeavesTimers]) (.inr (.inr (.inr (by
      rw [addrWord_toNat]; have := nnn.isLt; omega))))⟩
  case callAddr nnn =>
    rcases push_eq s s.pc with ⟨-, e⟩ | ⟨h, e⟩
    · exact ⟨_, by rw [exec, execCallAddr, e], .raises _ _ _⟩
    · exact ⟨_, by rw [exec, execCallAddr, e]; rfl, .call nnn h⟩
  case jpV0 nnn =>
    exact ⟨_, rfl, .registers _ s.v s.i _ (by simp [LeavesTimers]) (.inr (.inr (.inr (by
      rw [jpV0_toNat]; have := nnn.isLt; have := (s.reg 0).isLt; omega))))⟩
  case ldI nnn => exact ⟨_, rfl, .registers _ s.v _ s.pc (by simp [LeavesTimers]) (.inl rfl)⟩
  case addI x => exact ⟨_, rfl, .registers _ s.v _ s.pc (by simp [LeavesTimers]) (.inl rfl)⟩
  case ldF x => exact ⟨_, rfl, .registers _ s.v _ s.pc (by simp [LeavesTimers]) (.inl rfl)⟩
  case drw x y n =>
    cases h : firstOutside s.i.toNat n.toNat with
    | some a => exact ⟨_, by rw [exec, execDrw, h], .raises _ _ _⟩
    | none =>
      exact ⟨_, by rw [exec, execDrw, h], .drw x y n _ (drawRows_onlyDraws _ _ _ _ _)⟩
  case skp x =>
    rcases keyNumbered_eq s (s.reg x) with ⟨-, e⟩ | ⟨h, e⟩
    · exact ⟨_, by rw [exec, execSkp, e], .raises _ _ _⟩
    · exact ⟨_, by rw [exec, execSkp, e], skipIf_effect _ _ _ (by simp [LeavesTimers])⟩
  case sknp x =>
    rcases keyNumbered_eq s (s.reg x) with ⟨-, e⟩ | ⟨h, e⟩
    · exact ⟨_, by rw [exec, execSknp, e], .raises _ _ _⟩
    · exact ⟨_, by rw [exec, execSknp, e], skipIf_effect _ _ _ (by simp [LeavesTimers])⟩
  case ldVxK x =>
    cases h : s.lowestKeyDown with
    | some k => exact ⟨_, by rw [exec, execLdVxK, h], setReg_effect _ _ _ _ (by simp [LeavesTimers])⟩
    | none =>
      exact ⟨_, by rw [exec, execLdVxK, h]; rfl,
        .registers _ s.v s.i _ (by simp [LeavesTimers]) (.inr (.inr (.inl rfl)))⟩
  case ldDTVx x => exact ⟨_, rfl, .delay x⟩
  case ldSTVx x => exact ⟨_, rfl, .sound x⟩
  case ldB x =>
    cases h : firstOutside s.i.toNat 3 with
    | some a => exact ⟨_, by rw [exec, execLdB, h], .raises _ _ _⟩
    | none =>
      exact ⟨_, by rw [exec, execLdB, h], .digits x ((firstOutside_none.1 h).resolve_left (by omega))⟩
  case storeRegs x =>
    cases h : firstOutside s.i.toNat (x.val + 1) with
    | some a => exact ⟨_, by rw [exec, execStoreRegs, h], .raises _ _ _⟩
    | none =>
      exact ⟨_, by rw [exec, execStoreRegs, h],
        .block x ((firstOutside_none.1 h).resolve_left (by omega))⟩
  case loadRegs x =>
    cases h : firstOutside s.i.toNat (x.val + 1) with
    | some a => exact ⟨_, by rw [exec, execLoadRegs, h], .raises _ _ _⟩
    | none =>
      exact ⟨_, by rw [exec, execLoadRegs, h]; rfl,
        .registers _ _ s.i s.pc (by simp [LeavesTimers]) (.inl rfl)⟩
  case unimplemented op => exact ⟨_, rfl, .diag op⟩
  all_goals
    first
    | exact ⟨_, rfl, setReg_effect _ _ _ _ (by simp [LeavesTimers])⟩
    | exact ⟨_, rfl, setRegFlag_effect _ _ _ _ _ (by simp [LeavesTimers])⟩
    | exact ⟨_, rfl, skipIf_effect _ _ _ (by simp [LeavesTimers])⟩

/-- The effect of an instruction whose next state is given. -/
theorem effect_of_exec {i : Instr} {s t : State} (h : exec i s = .next t) : Effect s i t := by
  obtain ⟨u, hu, e⟩ := exec_effect i s
  rw [hu] at h
  cases h
  exact e

end Sys2Proof.Laws
end

