-- ==== Sys2Proof/Laws/PerInstr.lean ====
section
/-! SUPPORT. A statement about each instruction as a term: the top nibble of its opcode is the family that
R121 gives it (30_encoding.md R111, R114). -/

namespace Sys2Proof.Laws

/-- The family op[15:12] of each row of R121; an unimplemented opcode has its own top nibble. -/
def familyOf : Instr → Nibble
  | .cls _ => 0x0
  | .ret _ => 0x0
  | .sys _ => 0x0
  | .jpAddr _ => 0x1
  | .callAddr _ => 0x2
  | .seByte _ _ => 0x3
  | .sneByte _ _ => 0x4
  | .seReg _ _ _ => 0x5
  | .ldByte _ _ => 0x6
  | .addByte _ _ => 0x7
  | .ldReg _ _ => 0x8
  | .orReg _ _ => 0x8
  | .andReg _ _ => 0x8
  | .xorReg _ _ => 0x8
  | .addReg _ _ => 0x8
  | .subReg _ _ => 0x8
  | .shr _ _ => 0x8
  | .subn _ _ => 0x8
  | .shl _ _ => 0x8
  | .sneReg _ _ _ => 0x9
  | .ldI _ => 0xA
  | .jpV0 _ => 0xB
  | .rnd _ _ => 0xC
  | .drw _ _ _ => 0xD
  | .skp _ => 0xE
  | .sknp _ => 0xE
  | .ldVxDT _ => 0xF
  | .ldVxK _ => 0xF
  | .ldDTVx _ => 0xF
  | .ldSTVx _ => 0xF
  | .addI _ => 0xF
  | .ldF _ => 0xF
  | .ldB _ => 0xF
  | .storeRegs _ => 0xF
  | .loadRegs _ => 0xF
  | .unimplemented op => op.extractLsb' 12 4

/-- The opcode of i has i's family in its top nibble. -/
def TopNibble.Statement (i : Instr) : Prop := opFamily (encode i) = familyOf i

theorem TopNibble.cls (z : Nibble) : TopNibble.Statement (.cls z) :=
  opFamily_formatXKK _ _ _

theorem TopNibble.ret (z : Nibble) : TopNibble.Statement (.ret z) :=
  opFamily_formatXKK _ _ _

theorem TopNibble.sys (nnn : Addr12) : TopNibble.Statement (.sys nnn) :=
  opFamily_formatNNN _ _

theorem TopNibble.jpAddr (nnn : Addr12) : TopNibble.Statement (.jpAddr nnn) :=
  opFamily_formatNNN _ _

theorem TopNibble.callAddr (nnn : Addr12) : TopNibble.Statement (.callAddr nnn) :=
  opFamily_formatNNN _ _

theorem TopNibble.seByte (x : Reg) (kk : Byte) : TopNibble.Statement (.seByte x kk) :=
  opFamily_formatXKK _ _ _

theorem TopNibble.sneByte (x : Reg) (kk : Byte) : TopNibble.Statement (.sneByte x kk) :=
  opFamily_formatXKK _ _ _

theorem TopNibble.seReg (x : Reg) (y : Reg) (z : Nibble) : TopNibble.Statement (.seReg x y z) :=
  opFamily_formatXYN _ _ _ _

theorem TopNibble.ldByte (x : Reg) (kk : Byte) : TopNibble.Statement (.ldByte x kk) :=
  opFamily_formatXKK _ _ _

theorem TopNibble.addByte (x : Reg) (kk : Byte) : TopNibble.Statement (.addByte x kk) :=
  opFamily_formatXKK _ _ _

theorem TopNibble.ldReg (x : Reg) (y : Reg) : TopNibble.Statement (.ldReg x y) :=
  opFamily_formatXYN _ _ _ _

theorem TopNibble.orReg (x : Reg) (y : Reg) : TopNibble.Statement (.orReg x y) :=
  opFamily_formatXYN _ _ _ _

theorem TopNibble.andReg (x : Reg) (y : Reg) : TopNibble.Statement (.andReg x y) :=
  opFamily_formatXYN _ _ _ _

theorem TopNibble.xorReg (x : Reg) (y : Reg) : TopNibble.Statement (.xorReg x y) :=
  opFamily_formatXYN _ _ _ _

theorem TopNibble.addReg (x : Reg) (y : Reg) : TopNibble.Statement (.addReg x y) :=
  opFamily_formatXYN _ _ _ _

theorem TopNibble.subReg (x : Reg) (y : Reg) : TopNibble.Statement (.subReg x y) :=
  opFamily_formatXYN _ _ _ _

theorem TopNibble.shr (x : Reg) (y : Reg) : TopNibble.Statement (.shr x y) :=
  opFamily_formatXYN _ _ _ _

theorem TopNibble.subn (x : Reg) (y : Reg) : TopNibble.Statement (.subn x y) :=
  opFamily_formatXYN _ _ _ _

theorem TopNibble.shl (x : Reg) (y : Reg) : TopNibble.Statement (.shl x y) :=
  opFamily_formatXYN _ _ _ _

theorem TopNibble.sneReg (x : Reg) (y : Reg) (z : Nibble) : TopNibble.Statement (.sneReg x y z) :=
  opFamily_formatXYN _ _ _ _

theorem TopNibble.ldI (nnn : Addr12) : TopNibble.Statement (.ldI nnn) :=
  opFamily_formatNNN _ _

theorem TopNibble.jpV0 (nnn : Addr12) : TopNibble.Statement (.jpV0 nnn) :=
  opFamily_formatNNN _ _

theorem TopNibble.rnd (x : Reg) (kk : Byte) : TopNibble.Statement (.rnd x kk) :=
  opFamily_formatXKK _ _ _

theorem TopNibble.drw (x : Reg) (y : Reg) (n : Nibble) : TopNibble.Statement (.drw x y n) :=
  opFamily_formatXYN _ _ _ _

theorem TopNibble.skp (x : Reg) : TopNibble.Statement (.skp x) :=
  opFamily_formatXKK _ _ _

theorem TopNibble.sknp (x : Reg) : TopNibble.Statement (.sknp x) :=
  opFamily_formatXKK _ _ _

theorem TopNibble.ldVxDT (x : Reg) : TopNibble.Statement (.ldVxDT x) :=
  opFamily_formatXKK _ _ _

theorem TopNibble.ldVxK (x : Reg) : TopNibble.Statement (.ldVxK x) :=
  opFamily_formatXKK _ _ _

theorem TopNibble.ldDTVx (x : Reg) : TopNibble.Statement (.ldDTVx x) :=
  opFamily_formatXKK _ _ _

theorem TopNibble.ldSTVx (x : Reg) : TopNibble.Statement (.ldSTVx x) :=
  opFamily_formatXKK _ _ _

theorem TopNibble.addI (x : Reg) : TopNibble.Statement (.addI x) :=
  opFamily_formatXKK _ _ _

theorem TopNibble.ldF (x : Reg) : TopNibble.Statement (.ldF x) :=
  opFamily_formatXKK _ _ _

theorem TopNibble.ldB (x : Reg) : TopNibble.Statement (.ldB x) :=
  opFamily_formatXKK _ _ _

theorem TopNibble.storeRegs (x : Reg) : TopNibble.Statement (.storeRegs x) :=
  opFamily_formatXKK _ _ _

theorem TopNibble.loadRegs (x : Reg) : TopNibble.Statement (.loadRegs x) :=
  opFamily_formatXKK _ _ _

theorem TopNibble.unimplemented (op : Word) : TopNibble.Statement (.unimplemented op) :=
  rfl

end Sys2Proof.Laws
end

