-- ==== Sys2Proof/Tests/Slice0.lean ====
section
/-! SUPPORT. The model's own tests: the checks of well-formedness, a word of every row of the opcode map,
the vectors of 95_test_vectors.md one step at a time, and a witness for the hypotheses of every statement. -/

namespace Sys2Proof.Tests
open Sys2Proof.Machine Sys2Proof.Claims

/-! ### Helpers -/

/-- The start state of the vectors: reset, pc at 0x200 and both observers registered. -/
def base : State := { State.reset with pc := 0x200, drawObs := some 0, soundObs := some 0 }

/-- s with pc at a and the opcode op in memory there. -/
def placed (s : State) (a op : Word) : State :=
  { s with pc := a }.storeBytes a.toNat (bytesOfWord op)

/-- The start state with op at 0x200. -/
def ready (op : Word) : State := placed base 0x200 op

/-- The state after one step. -/
def after (s : State) : State :=
  match step s with
  | .next t => t
  | .fault _ => s
  | .refused _ => s

/-- The state after an instruction. -/
def ran (i : Instr) (s : State) : State :=
  match exec i s with
  | .next t => t
  | .fault _ => s
  | .refused _ => s

/-- The state after a transaction. -/
def did (q : Transaction) (s : State) : State :=
  match transact q s with
  | .next (t, _) => t
  | .fault _ => s
  | .refused _ => s

/-- s with V0 = a, V1 = b and VF = f. -/
def withRegs (s : State) (a b f : Byte) : State := ((s.setReg 0 a).setReg 1 b).setReg vf f

/-- A faulted state. -/
def stuck : State := { base with fault := some ⟨.stackUnderflow, 0x200, some 0x00EE, 0⟩ }

/-! ### Well-formedness -/

/-- SYS with the low byte of CLS or RET is no instruction (R115). -/
theorem test_wellFormed_sys_refused :
    Instr.wellFormed (.sys 0x0E0) = false ∧ Instr.wellFormed (.sys 0x1EE) = false := by decide

/-- A word of another row is no unimplemented opcode (R122). -/
theorem test_wellFormed_unimplemented_refused :
    Instr.wellFormed (.unimplemented 0x6005) = false ∧
      Instr.wellFormed (.unimplemented 0x8127) = false ∧
      Instr.wellFormed (.unimplemented 0xE59E) = false ∧
      Instr.wellFormed (.unimplemented 0xF20A) = false := by decide

/-! ### Decoding: a word of every row of R121 -/

theorem test_decode_cls : decode 0x00E0 = .cls 0 ∧ decode 0x05E0 = .cls 5 := by decide
theorem test_decode_ret : decode 0x00EE = .ret 0 ∧ decode 0x01EE = .ret 1 := by decide
theorem test_decode_sys : decode 0x0123 = .sys 0x123 ∧ decode 0x00E1 = .sys 0x0E1 := by decide
theorem test_decode_jpAddr : decode 0x1ABC = .jpAddr 0xABC := by decide
theorem test_decode_callAddr : decode 0x2210 = .callAddr 0x210 := by decide
theorem test_decode_seByte : decode 0x3F01 = .seByte 0xF 0x01 := by decide
theorem test_decode_sneByte : decode 0x4305 = .sneByte 3 0x05 := by decide
theorem test_decode_seReg : decode 0x5127 = .seReg 1 2 7 := by decide
theorem test_decode_ldByte : decode 0x6AFF = .ldByte 0xA 0xFF := by decide
theorem test_decode_addByte : decode 0x7F01 = .addByte 0xF 0x01 := by decide
theorem test_decode_ldReg : decode 0x8010 = .ldReg 0 1 := by decide
theorem test_decode_orReg : decode 0x8231 = .orReg 2 3 := by decide
theorem test_decode_andReg : decode 0x8232 = .andReg 2 3 := by decide
theorem test_decode_xorReg : decode 0x8233 = .xorReg 2 3 := by decide
theorem test_decode_addReg : decode 0x8F14 = .addReg 0xF 1 := by decide
theorem test_decode_subReg : decode 0x8F15 = .subReg 0xF 1 := by decide
theorem test_decode_shr : decode 0x8016 = .shr 0 1 := by decide
theorem test_decode_subn : decode 0x8017 = .subn 0 1 := by decide
theorem test_decode_shl : decode 0x801E = .shl 0 1 := by decide
theorem test_decode_sneReg : decode 0x912F = .sneReg 1 2 0xF := by decide
theorem test_decode_ldI : decode 0xA300 = .ldI 0x300 := by decide
theorem test_decode_jpV0 : decode 0xB300 = .jpV0 0x300 := by decide
theorem test_decode_rnd : decode 0xC00F = .rnd 0 0x0F := by decide
theorem test_decode_drw : decode 0xD125 = .drw 1 2 5 := by decide
theorem test_decode_skp : decode 0xEF9E = .skp 0xF := by decide
theorem test_decode_sknp : decode 0xE0A1 = .sknp 0 := by decide
theorem test_decode_ldVxDT : decode 0xF107 = .ldVxDT 1 := by decide
theorem test_decode_ldVxK : decode 0xF20A = .ldVxK 2 := by decide
theorem test_decode_ldDTVx : decode 0xF015 = .ldDTVx 0 := by decide
theorem test_decode_ldSTVx : decode 0xF218 = .ldSTVx 2 := by decide
theorem test_decode_addI : decode 0xF01E = .addI 0 := by decide
theorem test_decode_ldF : decode 0xF029 = .ldF 0 := by decide
theorem test_decode_ldB : decode 0xF033 = .ldB 0 := by decide
theorem test_decode_storeRegs : decode 0xFF55 = .storeRegs 0xF := by decide
theorem test_decode_loadRegs : decode 0xF265 = .loadRegs 2 := by decide
theorem test_decode_unimplemented :
    decode 0x801F = .unimplemented 0x801F ∧ decode 0xE0A0 = .unimplemented 0xE0A0 ∧
      decode 0xF0FF = .unimplemented 0xF0FF := by decide

/-- One byte is no opcode, two are, and the rest is given back (R110). -/
theorem test_decodeBytes :
    decodeBytes [0x60] = .error .truncated ∧ decodeBytes [] = .error .truncated ∧
      decodeBytes [0x60, 0x05, 0x7F] = .ok (.ldByte 0 0x05, [0x7F]) := by
  refine ⟨rfl, rfl, rfl⟩

/-- The opcode table's numbering of a word is the opcode itself. -/
theorem test_decodeTableWord : decodeTableWord 16 0x6AFF = some (.ldByte 0xA 0xFF) := by decide

/-! ### The cycle (95_test_vectors.md 2.1) -/

/-- C-2: ST = 1, SYS. -/
theorem test_step_c2 :
    let t := after { ready 0x0123 with st := 1 }
    t.pc = 0x202 ∧ t.st = 0 ∧ t.events = [.sound] := by decide

/-- C-4: no sound observer. -/
theorem test_step_c4 :
    let t := after { ready 0x0123 with st := 1, soundObs := none }
    t.st = 0 ∧ t.events = [] := by decide

/-- C-5: a fetch at 0xFFF. -/
theorem test_step_c5 :
    let t := after { base with pc := 0xFFF, dt := 5 }
    t.fault = some ⟨.memBounds, 0xFFF, none, 0x1000⟩ ∧ t.pc = 0xFFF ∧ t.dt = 5 := by decide

/-- C-9: a fetch at an odd address. -/
theorem test_step_c9 :
    let t := after (placed base 0x201 0x6005)
    t.reg 0 = 5 ∧ t.pc = 0x203 := by decide

/-- H-9: after reset the machine executes SYS at 0x000. -/
theorem test_step_h9 : (after State.reset).pc = 0x002 := by decide

/-- withFetchWord puts the opcode where the first step after reset fetches it. -/
theorem test_withFetchWord :
    let t := after (State.reset.withFetchWord 16 0x6AFF)
    t.reg 0xA = 0xFF ∧ t.pc = 0x002 := by decide

/-- Where pc is no address to fetch from, withFetchWord moves it to 0x200. -/
theorem test_withFetchWord_moves :
    (after ({ stuck with pc := 0xFFF }.withFetchWord 16 0x6AFF)).pc = 0x202 := by decide

/-! ### Families 0x0 to 0x2 (2.2) -/

/-- F0-1: CLS. -/
theorem test_cls :
    let t := after ((ready 0x00E0).setPixel 31 63 true)
    t.pixel 31 63 = false ∧ t.drawFlag = true ∧ t.pc = 0x202 ∧ t.events.length = 1 := by decide

/-- F0-3: CLS without a draw observer. -/
theorem test_cls_unobserved :
    let t := after { ready 0x00E0 with drawObs := none }
    t.drawFlag = true ∧ t.events = [] := by decide

/-- F0-4: RET. -/
theorem test_ret :
    let t := after { placed base 0x210 0x00EE with sp := 1, stack := base.stack.set 0 0x206 }
    t.pc = 0x206 ∧ t.sp = 0 ∧ t.stack[0] = 0x206 := by decide

/-- F0-5: RET with no outstanding call. -/
theorem test_ret_underflow :
    let t := after { placed base 0x210 0x00EE with dt := 5 }
    t.fault = some ⟨.stackUnderflow, 0x210, some 0x00EE, 0⟩ ∧ t.pc = 0x210 ∧ t.dt = 5 := by decide

/-- F0-6: SYS. -/
theorem test_sys :
    let t := after (ready 0x0123)
    t.pc = 0x202 ∧ t.events = [] := by decide

/-- F0-10: JP. -/
theorem test_jpAddr : (after (ready 0x1301)).pc = 0x301 := by decide

/-- F0-13: CALL at SP = 15. -/
theorem test_callAddr :
    let t := after { placed base 0x204 0x2210 with sp := 15 }
    t.stack[15] = 0x206 ∧ t.sp = 16 ∧ t.pc = 0x210 := by decide

/-- F0-14: CALL at SP = 16. -/
theorem test_callAddr_overflow :
    let t := after { placed base 0x204 0x2210 with sp := 16 }
    t.fault = some ⟨.stackOverflow, 0x204, some 0x2210, 16⟩ ∧ t.pc = 0x204 ∧ t.sp = 16 := by decide

/-! ### Skips (2.3) -/

/-- SK-1 and SK-2. -/
theorem test_seByte :
    (after (placed base 0x208 0x3000)).pc = 0x20C ∧
      (after ((placed base 0x208 0x3000).setReg 0 1)).pc = 0x20A := by decide

/-- SK-3 and SK-4. -/
theorem test_sneByte :
    (after ((placed base 0x300 0x4305).setReg 3 5)).pc = 0x302 ∧
      (after ((placed base 0x300 0x4305).setReg 3 6)).pc = 0x304 := by decide

/-- SK-6 and SK-7. -/
theorem test_seReg :
    (after (((ready 0x5127).setReg 1 0x10).setReg 2 0x10)).pc = 0x204 ∧
      (after (((ready 0x5120).setReg 1 0x10).setReg 2 0x11)).pc = 0x202 := by decide

/-- SK-8 and SK-9. -/
theorem test_sneReg :
    (after (((ready 0x9120).setReg 1 0x10).setReg 2 0x11)).pc = 0x204 ∧
      (after (((ready 0x912F).setReg 1 0x10).setReg 2 0x10)).pc = 0x202 := by decide

/-! ### ALU (2.4) -/

/-- A-1. -/
theorem test_ldByte : (after (ready 0x6AFF)).reg 0xA = 0xFF := by decide

/-- A-2. -/
theorem test_addByte :
    let t := after (withRegs (ready 0x7001) 0xFF 0 0)
    t.reg 0 = 0 ∧ t.reg vf = 0 := by decide

/-- A-4. -/
theorem test_ldReg : (after (withRegs (ready 0x8010) 0 0x2A 0)).reg 0 = 0x2A := by decide

/-- A-5. -/
theorem test_orReg :
    let t := after (withRegs (ready 0x8011) 0x0F 0xF0 0x55)
    t.reg 0 = 0xFF ∧ t.reg vf = 0x55 := by decide

/-- A-6. -/
theorem test_andReg :
    let t := after (withRegs (ready 0x8012) 0x3C 0x0F 0x55)
    t.reg 0 = 0x0C ∧ t.reg vf = 0x55 := by decide

/-- The example of R217. -/
theorem test_xorReg :
    let t := after (withRegs (ready 0x8013) 0xFF 0x0F 0x55)
    t.reg 0 = 0xF0 ∧ t.reg vf = 0x55 := by decide

/-- A-8 and A-10. -/
theorem test_addReg :
    (let t := after (withRegs (ready 0x8014) 0xC8 0x64 0); t.reg 0 = 0x2C ∧ t.reg vf = 1) ∧
      (let t := after (withRegs (ready 0x8014) 0xFE 0x01 7); t.reg 0 = 0xFF ∧ t.reg vf = 0) := by
  decide

/-- A-12 and A-13: VF as destination and as source. -/
theorem test_addReg_vf :
    (after (withRegs (ready 0x8F14) 0 0x90 0x80)).reg vf = 1 ∧
      (after (withRegs (ready 0x80F4) 0xFF 0 1)).reg 0 = 0 := by decide

/-- A-15 and A-16. -/
theorem test_subReg :
    (let t := after (withRegs (ready 0x8015) 5 7 9); t.reg 0 = 0xFE ∧ t.reg vf = 0) ∧
      (let t := after (withRegs (ready 0x8015) 7 7 9); t.reg 0 = 0 ∧ t.reg vf = 1) := by decide

/-- A-20 and A-21. -/
theorem test_shr :
    (let t := after (withRegs (ready 0x8016) 4 0xFF 9); t.reg 0 = 2 ∧ t.reg vf = 0) ∧
      (after (withRegs (ready 0x8F06) 0 0 3)).reg vf = 1 := by decide

/-- A-23 and A-24. -/
theorem test_subn :
    (let t := after (withRegs (ready 0x8017) 5 7 9); t.reg 0 = 2 ∧ t.reg vf = 1) ∧
      (let t := after (withRegs (ready 0x8017) 1 0 9); t.reg 0 = 0xFF ∧ t.reg vf = 0) := by decide

/-- A-25 and A-27. -/
theorem test_shl :
    (let t := after (withRegs (ready 0x801E) 0x81 0 0); t.reg 0 = 2 ∧ t.reg vf = 1) ∧
      (after (withRegs (ready 0x8F0E) 0 0 0x80)).reg vf = 1 := by decide

/-- A-28: an unimplemented opcode. -/
theorem test_unimplemented :
    let t := after (ready 0x801F)
    t.pc = 0x202 ∧ t.events = [.diag 0x801F] := by decide

/-! ### Index, indexed jump, random (2.5) -/

/-- I-2. -/
theorem test_ldI : (after (ready 0xAFFF)).i = 0x0FFF := by decide

/-- I-4: the sum is not masked. -/
theorem test_jpV0 : (after ((ready 0xBFFF).setReg 0 0xFF)).pc = 0x10FE := by decide

/-- I-7: rnd = 0xB7. -/
theorem test_rnd : (did (.cycle (.given 0xB7) []) (ready 0xC00F)).reg 0 = 0x07 := by decide

/-- The same byte in a RunFrame of one cycle. -/
theorem test_rnd_runFrame : (did (.runFrame 1 [0xB7] []) (ready 0xC00F)).reg 0 = 0x07 := by decide

/-! ### Draw (2.6) -/

/-- DR-3: wrap at the right edge. -/
theorem test_drw_wraps :
    let t := after { ((ready 0xD011).setReg 0 0x3C).writeByte 0x300 0xFF with i := 0x300 }
    t.pixel 0 60 = true ∧ t.pixel 0 63 = true ∧ t.pixel 0 0 = true ∧ t.pixel 0 3 = true ∧
      t.pixel 0 4 = false ∧ t.pixel 0 59 = false ∧ t.reg vf = 0 ∧ t.events.length = 1 := by decide

/-- DR-9: the whole block is checked first. -/
theorem test_drw_faults :
    let t := after { (withRegs (ready 0xD013) 0 0 7).setPixel 0 0 true with i := 0xFFE }
    t.fault = some ⟨.memBounds, 0x200, some 0xD013, 0x1000⟩ ∧ t.reg vf = 7 ∧
      t.pixel 0 0 = true ∧ t.drawFlag = false ∧ t.pc = 0x200 := by decide

/-! ### Key skips (2.7) -/

/-- K-1 and K-2. -/
theorem test_skp :
    (after (((ready 0xE09E).setReg 0 5).setKey 5 true)).pc = 0x204 ∧
      (after ((ready 0xE09E).setReg 0 5)).pc = 0x202 := by decide

/-- K-5: no such key. -/
theorem test_skp_faults :
    let t := after ((ready 0xE09E).setReg 0 0x10)
    t.fault = some ⟨.keyIndex, 0x200, some 0xE09E, 0x10⟩ ∧ t.pc = 0x200 := by decide

/-- K-3 and K-4. -/
theorem test_sknp :
    (after ((ready 0xE0A1).setReg 0 5)).pc = 0x204 ∧
      (after (((ready 0xE0A1).setReg 0 5).setKey 5 true)).pc = 0x202 := by decide

/-! ### Family 0xF (2.8) -/

/-- F-1. -/
theorem test_ldVxDT :
    let t := after { ready 0xF107 with dt := 2 }
    t.reg 1 = 2 ∧ t.dt = 1 := by decide

/-- F-3: the wait. -/
theorem test_ldVxK_waits :
    let t := after { (placed base 0x206 0xF20A).setReg 2 0x33 with dt := 3 }
    t.pc = 0x206 ∧ t.reg 2 = 0x33 ∧ t.dt = 2 := by decide

/-- F-4: the lowest key. -/
theorem test_ldVxK :
    let t := after (((placed base 0x206 0xF20A).setKey 7 true).setKey 3 true)
    t.reg 2 = 3 ∧ t.pc = 0x208 := by decide

/-- F-6 and F-7. -/
theorem test_ldDTVx :
    (after ((ready 0xF015).setReg 0 3)).dt = 2 ∧ (after { ready 0xF015 with dt := 9 }).dt = 0 := by
  decide

/-- F-8 and F-9. -/
theorem test_ldSTVx :
    (let t := after ((ready 0xF018).setReg 0 1); t.st = 0 ∧ t.events = [.sound]) ∧
      (let t := after { ready 0xF018 with st := 1 }; t.st = 0 ∧ t.events = []) := by decide

/-- F-12 and F-13. -/
theorem test_addI :
    (after { (ready 0xF01E).setReg 0 1 with i := 0xFFFF }).i = 0 ∧
      (after { (ready 0xF01E).setReg 0 1 with i := 0x0FFF }).i = 0x1000 := by decide

/-- F-14 and F-17. -/
theorem test_ldF :
    (after ((ready 0xF029).setReg 0 7)).i = 0x073 ∧
      (after ((ready 0xF029).setReg 0 0xFF)).i = 0x54B := by decide

/-- F-23. -/
theorem test_ldB :
    let t := after { (ready 0xF033).setReg 0 0x7B with i := 0xFFD }
    t.readByte 0xFFD = 1 ∧ t.readByte 0xFFE = 2 ∧ t.readByte 0xFFF = 3 := by decide

/-- F-24. -/
theorem test_ldB_faults :
    let t := after { ((ready 0xF033).setReg 0 0x7B).writeByte 0xFFE 0xAA with i := 0xFFE }
    t.fault = some ⟨.memBounds, 0x200, some 0xF033, 0x1000⟩ ∧ t.readByte 0xFFE = 0xAA := by decide

/-- F-25: V0 alone is stored, and I stays. -/
theorem test_storeRegs :
    let t := after { withRegs (ready 0xF055) 0xAB 0xCD 0 with i := 0x300 }
    t.readByte 0x300 = 0xAB ∧ t.readByte 0x301 = 0 ∧ t.i = 0x300 := by decide

/-- F-27. -/
theorem test_storeRegs_faults :
    let t := after { withRegs (ready 0xF255) 1 2 0 with i := 0xFFE }
    t.fault = some ⟨.memBounds, 0x200, some 0xF255, 0x1000⟩ ∧ t.readByte 0xFFE = 0 := by decide

/-- F-28, with the font as the block (R44) and V3 untouched. -/
theorem test_loadRegs :
    let t := after { (ready 0xF265).setReg 3 9 with i := 0x050 }
    t.reg 0 = 0xF0 ∧ t.reg 1 = 0x90 ∧ t.reg 2 = 0x90 ∧ t.reg 3 = 9 ∧ t.i = 0x050 := by decide

/-- F-30. -/
theorem test_loadRegs_faults :
    let t := after { withRegs (ready 0xF165) 1 2 0 with i := 0xFFF }
    t.fault = some ⟨.memBounds, 0x200, some 0xF165, 0x1000⟩ ∧ t.reg 0 = 1 ∧ t.reg 1 = 2 := by decide

/-! ### Memory and transactions (2.9) -/

/-- Writing the reset contents back leaves nothing listed. -/
theorem test_memory_canonical :
    ((base.writeByte 0x300 7).writeByte 0x300 0).mem = [] ∧
      ((base.writeByte 0x050 7).writeByte 0x050 0xF0).mem = [] := by decide

/-- H-3: an empty program. -/
theorem test_loadProgram_empty :
    let t := did (.loadProgram []) { base with pc := 0x400 }
    t.pc = 0x200 ∧ t.mem = [] := by decide

/-- H-4: LoadProgram works in the faulted state and does not leave it. -/
theorem test_loadProgram_faulted :
    let t := did (.loadProgram [0x12, 0x00]) stuck
    t.readByte 0x200 = 0x12 ∧ t.pc = 0x200 ∧ t.fault = stuck.fault := by decide

/-- H-5 and H-6. -/
theorem test_setKey :
    (did (.setKey 5 true) base).key[5] = true ∧
      (did (.setKey 16 true) base).key = base.key ∧ (did (.setKey (-1) true) base).key = base.key := by
  decide

/-- H-8: Reset keeps the observers and clears the fault. -/
theorem test_reset :
    let t := did .reset { stuck with dt := 7 }
    t.pc = 0 ∧ t.fault = none ∧ t.dt = 0 ∧ t.drawObs = some 0 ∧ t.readByte 0x050 = 0xF0 := by decide

/-- C-11: a fault in a RunFrame of three cycles. -/
theorem test_runFrame_fault :
    let t := did (.runFrame 3 [] []) (ready 0x00EE)
    t.fault = some ⟨.stackUnderflow, 0x200, some 0x00EE, 0⟩ ∧ t.events.length = 1 ∧ t.pc = 0x200 := by
  decide

/-- A key set by the draw observer in cycle 1 is seen by cycle 2 (R337). -/
theorem test_observer_setKey :
    (did (.runFrame 2 [] [[.setKey 4 true]])
      ((ready 0x00E0).storeBytes 0x202 [0xF2, 0x0A])).reg 2 = 4 := by decide

/-- An observer's RunFrame is refused (U1). -/
theorem test_observer_refused :
    transact (.cycle (.given 0) [.runFrame]) (ready 0x00E0) = .refused .reentrantCall := by rfl

/-! ### Witnesses -/

/-- Words that the rows of R121 select. -/
theorem witness_Decodes_flow :
    (0x05E0 : Word) &&& 0xF0FF = 0x00E0 ∧ (0x01EE : Word) &&& 0xF0FF = 0x00EE ∧
      (0x1ABC : Word) &&& 0xF000 = 0x1000 ∧ (0x2210 : Word) &&& 0xF000 = 0x2000 ∧
      (0x3F01 : Word) &&& 0xF000 = 0x3000 ∧ (0x4305 : Word) &&& 0xF000 = 0x4000 ∧
      (0x5127 : Word) &&& 0xF000 = 0x5000 ∧ (0x912F : Word) &&& 0xF000 = 0x9000 ∧
      (0xA300 : Word) &&& 0xF000 = 0xA000 ∧ (0xB300 : Word) &&& 0xF000 = 0xB000 := by decide

/-- Words that the rows of R121 select. -/
theorem witness_Decodes_alu :
    (0x6AFF : Word) &&& 0xF000 = 0x6000 ∧ (0x7F01 : Word) &&& 0xF000 = 0x7000 ∧
      (0x8010 : Word) &&& 0xF00F = 0x8000 ∧ (0x8231 : Word) &&& 0xF00F = 0x8001 ∧
      (0x8232 : Word) &&& 0xF00F = 0x8002 ∧ (0x8233 : Word) &&& 0xF00F = 0x8003 ∧
      (0x8F14 : Word) &&& 0xF00F = 0x8004 ∧ (0x8F15 : Word) &&& 0xF00F = 0x8005 ∧
      (0x8016 : Word) &&& 0xF00F = 0x8006 ∧ (0x8017 : Word) &&& 0xF00F = 0x8007 ∧
      (0x801E : Word) &&& 0xF00F = 0x800E ∧ (0xC00F : Word) &&& 0xF000 = 0xC000 ∧
      (0xD125 : Word) &&& 0xF000 = 0xD000 := by decide

/-- Words that the rows of R121 select. -/
theorem witness_Decodes_keysAndF :
    (0xEF9E : Word) &&& 0xF0FF = 0xE09E ∧ (0xE0A1 : Word) &&& 0xF0FF = 0xE0A1 ∧
      (0xF107 : Word) &&& 0xF0FF = 0xF007 ∧ (0xF20A : Word) &&& 0xF0FF = 0xF00A ∧
      (0xF015 : Word) &&& 0xF0FF = 0xF015 ∧ (0xF218 : Word) &&& 0xF0FF = 0xF018 ∧
      (0xF01E : Word) &&& 0xF0FF = 0xF01E ∧ (0xF029 : Word) &&& 0xF0FF = 0xF029 ∧
      (0xF033 : Word) &&& 0xF0FF = 0xF033 ∧ (0xFF55 : Word) &&& 0xF0FF = 0xF055 ∧
      (0xF265 : Word) &&& 0xF0FF = 0xF065 := by decide

/-- Well-formed instructions at the edge of the two conditions that exclude words. -/
theorem witness_EncodeThenDecode :
    Instr.wellFormed (.sys 0x0E1) = true ∧ Instr.wellFormed (.sys 0x0EF) = true ∧
      Instr.wellFormed (.unimplemented 0x800F) = true ∧
      Instr.wellFormed (.unimplemented 0xE0A2) = true ∧
      Instr.wellFormed (.unimplemented 0xF008) = true ∧ Instr.wellFormed (.cls 0xF) = true := by
  decide

/-- The last address an opcode is fetched from. -/
theorem witness_StepRunsTheDecodedInstruction :
    let s := placed base 0xFFE 0x6005
    s.fault = none ∧ s.pc.toNat ≤ 0xFFE ∧ Instr.wellFormed (.ldByte 0 5) = true ∧
      decode (wordOfBytes (s.readByte s.pc.toNat) (s.readByte (s.pc.toNat + 1))) = .ldByte 0 5 := by
  decide

/-- Both sides of the fetch boundary. -/
theorem witness_FetchReadsTwoBytesOrFaults :
    ({ base with pc := 0xFFE } : State).pc.toNat ≤ 0xFFE ∧
      (({ base with pc := 0xFFF } : State).fault = none ∧
        0xFFF ≤ ({ base with pc := 0xFFF } : State).pc.toNat) ∧
      (({ base with pc := 0x1000 } : State).fault = none ∧
        0xFFF ≤ ({ base with pc := 0x1000 } : State).pc.toNat) := by decide

theorem witness_FaultedBlockDoesNothing : stuck.fault ≠ none := by decide

/-- A cycle that sets ST to 1 and sounds. -/
theorem witness_CycleTicksBothTimers :
    let s := (ready 0xF018).setReg 0 1
    s.fault = none ∧ s.fetch = .ok 0xF018 ∧ step s = .next (after s) ∧ (after s).fault = none := by
  refine ⟨rfl, rfl, rfl, rfl⟩

/-- A cycle that does not fault, and one that does. -/
theorem witness_CycleEventOrder :
    (let s := { ready 0x00E0 with st := 1 };
      s.fault = none ∧ s.fetch = .ok 0x00E0 ∧ step s = .next (after s) ∧ (after s).fault = none) ∧
      (let s := ready 0x00EE;
        s.fault = none ∧ step s = .next (after s) ∧
          (after s).fault = some ⟨.stackUnderflow, 0x200, some 0x00EE, 0⟩) := by
  refine ⟨⟨rfl, rfl, rfl, rfl⟩, rfl, rfl, rfl⟩

/-- A store to the last three bytes, from a memory that lists its opcode. -/
theorem witness_StepKeepsMemoryCanonical :
    let s := { ready 0xF033 with i := 0xFFD }
    s.memCanonical ∧ step s = .next (after s) := by
  refine ⟨?_, rfl⟩
  unfold State.memCanonical
  decide

/-- The highest pc, and a CALL from the last address that can hold one. -/
theorem witness_StepKeepsPcBounded :
    (let s := { base with pc := 0x10FE };
      s.pcBounded ∧ step s = .next (after s)) ∧
      (let s := placed base 0xFFE 0x2FFF;
        s.pcBounded ∧ step s = .next (after s)) := by
  refine ⟨⟨?_, rfl⟩, ?_, rfl⟩ <;> unfold State.pcBounded <;> decide

/-- A fetch fault and an instruction's fault. -/
theorem witness_FaultingStepChangesOnlyFault :
    (let s := { base with pc := 0xFFF };
      s.fault = none ∧ step s = .next (after s) ∧
        (after s).fault = some ⟨.memBounds, 0xFFF, none, 0x1000⟩) ∧
      (let s := (ready 0xE09E).setReg 0 0x10;
        s.fault = none ∧ step s = .next (after s) ∧
          (after s).fault = some ⟨.keyIndex, 0x200, some 0xE09E, 0x10⟩) := by
  refine ⟨⟨rfl, rfl, rfl⟩, rfl, rfl, rfl⟩

/-- A running state in which each row of the fault table is taken, and one in which none is. -/
theorem witness_ExecFaultsAsTabled :
    base.fault = none ∧
      raises (.callAddr 0x210) { base with sp := 16 } = some (.stackOverflow, 16) ∧
      raises (.callAddr 0x210) { base with sp := 15 } = none ∧
      raises (.ret 0) base = some (.stackUnderflow, 0) ∧
      raises (.ret 0) { base with sp := 1 } = none ∧
      raises (.skp 0) (base.setReg 0 16) = some (.keyIndex, 16) ∧
      raises (.skp 0) (base.setReg 0 15) = none ∧
      raises (.sknp 0) (base.setReg 0 255) = some (.keyIndex, 255) ∧
      raises (.drw 0 0 2) { base with i := 0xFFF } = some (.memBounds, 0x1000) ∧
      raises (.drw 0 0 1) { base with i := 0xFFF } = none ∧
      raises (.drw 0 0 0) { base with i := 0xFFFF } = none ∧
      raises (.ldB 0) { base with i := 0xFFE } = some (.memBounds, 0x1000) ∧
      raises (.storeRegs 0) { base with i := 0x1234 } = some (.memBounds, 0x1234) ∧
      raises (.loadRegs 0) { base with i := 0xFFF } = none ∧
      (let s := { base with pc := 0xFFF }; s.fault = none ∧ 0xFFF ≤ s.pc.toNat) := by decide

/-- A transaction on a faulted block. -/
theorem witness_OnlyResetClearsAFault :
    Transaction.cycle (.given 0) [] ≠ .reset ∧
      stuck.fault = some ⟨.stackUnderflow, 0x200, some 0x00EE, 0⟩ ∧
      transact (.cycle (.given 0) []) stuck = .next (did (.cycle (.given 0) []) stuck, .none) := by
  refine ⟨by decide, rfl, rfl⟩

/-- A step that changes the framebuffer and the draw flag. -/
theorem witness_OnlyClsAndDrwTouchTheScreen :
    let s := (ready 0x00E0).setPixel 0 0 true
    step s = .next (after s) ∧ (after s).drawFlag ≠ s.drawFlag ∧ (after s).fb ≠ s.fb := by
  refine ⟨rfl, by decide, fun h => ?_⟩
  have := congrArg (fun f : Vector (Vector Bool 64) 32 => f[0][0]) h
  revert this
  decide

theorem witness_StepKeepsHostState : step (ready 0x00E0) = .next (after (ready 0x00E0)) := by rfl

/-- A step that changes the byte at I + 2. -/
theorem witness_OnlyStoresWriteMemory :
    let s := { (ready 0xF033).setReg 0 0x7B with i := 0xFFD }
    step s = .next (after s) ∧ (after s).readByte 0xFFF ≠ s.readByte 0xFFF := by
  refine ⟨rfl, by decide⟩

/-- A CALL that changes the stack and SP, and a RET that changes SP. -/
theorem witness_OnlyCallAndRetTouchTheStack :
    (let s := ready 0x2210;
      step s = .next (after s) ∧ (after s).stack ≠ s.stack ∧ (after s).sp ≠ s.sp) ∧
      (let s := { ready 0x00EE with sp := 16 };
        step s = .next (after s) ∧ (after s).sp ≠ s.sp) := by
  refine ⟨⟨rfl, by decide, by decide⟩, rfl, by decide⟩

/-- SP at both ends of the range that pops, and SP = 0. -/
theorem witness_RetPopsTheReturnAddress :
    ({ base with sp := 1 } : State).sp.val ≠ 0 ∧ ({ base with sp := 16 } : State).sp.val ≠ 0 ∧
      base.sp.val = 0 := by decide

/-- Family-0x0 words beside CLS and RET. -/
theorem witness_SysIsIgnored :
    ((0x00E1 : Word) &&& 0xF000 = 0x0000 ∧ (0x00E1 : Word) &&& 0xF0FF ≠ 0x00E0 ∧
      (0x00E1 : Word) &&& 0xF0FF ≠ 0x00EE) ∧
      ((0x0FFF : Word) &&& 0xF000 = 0x0000 ∧ (0x0FFF : Word) &&& 0xF0FF ≠ 0x00E0 ∧
        (0x0FFF : Word) &&& 0xF0FF ≠ 0x00EE) := by decide

/-- The last CALL that fits, and the one after it. -/
theorem witness_CallPushesTheReturnAddress :
    ({ base with sp := 15 } : State).sp.val < 16 ∧ base.sp.val < 16 ∧
      ({ base with sp := 16 } : State).sp.val = 16 := by decide

/-- The sixteenth CALL, and a state that differs from its end in VF. -/
theorem witness_RetUndoesCall :
    let s : State := { base with sp := 15 }
    let t := ran (.callAddr 0x210) s
    let u := t.setReg vf 9
    s.sp.val < 16 ∧ exec (.callAddr 0x210) s = .next t ∧ u.stack = t.stack ∧ u.sp = t.sp := by
  refine ⟨by decide, rfl, rfl, rfl⟩

/-- Both outcomes of each comparison. -/
theorem witness_ByteSkipsCompare :
    base.reg 3 = 0x00 ∧ base.reg 3 ≠ 0xFF ∧ ¬base.reg 3 ≠ 0x00 ∧ ¬base.reg 3 = 0xFF := by decide

/-- Both outcomes of each comparison. -/
theorem witness_RegisterSkipsCompare :
    (base.setReg 1 7).reg 1 ≠ (base.setReg 1 7).reg 2 ∧ ¬(base.setReg 1 7).reg 1 = (base.setReg 1 7).reg 2 ∧
      base.reg 1 = base.reg 2 ∧ ¬base.reg 1 ≠ base.reg 2 := by decide

/-- A destination and a bystander beside VF, for the register and flag statements. -/
theorem witness_WritesRegAndFlag : (0xE : Reg) ≠ vf ∧ (0x0 : Reg) ≠ 0xE ∧ (0x0 : Reg) ≠ vf := by decide

/-- A given and a free random byte. -/
theorem witness_RndMasksTheRandomByte :
    ({ base with rnd := .given 0xB7 } : State).rnd = .given 0xB7 ∧
      ({ base with rnd := .free 3 } : State).rnd = .free 3 := by
  refine ⟨rfl, rfl⟩

/-- No rows with I past memory, a block that ends at 0xFFF, and one that does not fit; a set and a clear
pixel under a set sprite bit. -/
theorem witness_DrwTogglesSpritePixels :
    Inside 0xFFFF (0 : Nibble).toNat ∧ Inside 0xFF1 (15 : Nibble).toNat ∧
      ¬Inside 0xFF2 (15 : Nibble).toNat ∧
      (let s := (base.setReg 0 0x3F).setPixel 0 63 true;
        SpriteBit s (s.reg 0) (s.reg 1) 0x050 5 0 63 ∧ s.pixel 0 63 = true ∧
          SpriteBit s (s.reg 0) (s.reg 1) 0x050 5 0 0 ∧ s.pixel 0 0 = false) := by
  refine ⟨by unfold Inside; decide, by unfold Inside; decide, by unfold Inside; decide,
    ⟨0, 0, by decide⟩, by decide, ⟨0, 1, by decide⟩, by decide⟩

/-- Two draws of glyph 0 at the top left corner. -/
theorem witness_DrawingTwiceRestoresTheScreen :
    let s : State := { base with i := 0x050 }
    let t := ran (.drw 0 1 5) s
    Inside s.i.toNat (5 : Nibble).toNat ∧ exec (.drw 0 1 5) s = .next t ∧ t.fb = t.fb ∧ t.i = s.i ∧
      t.reg 0 = s.reg 0 ∧ t.reg 1 = s.reg 1 ∧ (∀ a, t.readByte a = s.readByte a) ∧
      exec (.drw 0 1 5) t = .next (ran (.drw 0 1 5) t) := by
  refine ⟨by unfold Inside; decide, rfl, rfl, rfl, rfl, rfl, fun a => rfl, rfl⟩

/-- The last key and the first number that names none; a key that is down and one that is up. -/
theorem witness_KeySkipsTestTheKey :
    ((base.setReg 0 15).reg 0).toNat < 16 ∧ 15 < ((base.setReg 0 16).reg 0).toNat ∧
      (base.setKey 15 true).key[15] = true ∧ base.key[15] = false := by decide

/-- The lowest and the highest key as the one taken, and no key down. -/
theorem witness_KeyWaitTakesTheLowestKey :
    ((base.setKey 0 true).key[0] = true ∧ ∀ j : Fin 16, j < 0 → (base.setKey 0 true).key[j.val] = false) ∧
      ((base.setKey 15 true).key[15] = true ∧
        ∀ j : Fin 16, j < 15 → (base.setKey 15 true).key[j.val] = false) ∧
      ∀ k : Fin 16, base.key[k.val] = false := by decide

theorem witness_KeyWaitStaysAtItsAddress :
    (ready 0xF20A).fault = none ∧ (ready 0xF20A).fetch = .ok 0xF20A ∧ decode 0xF20A = .ldVxK 2 ∧
      ∀ k : Fin 16, (ready 0xF20A).key[k.val] = false := by
  refine ⟨rfl, rfl, by decide, by decide⟩

/-- Blocks of three bytes at the end of memory, and the bytes around a block. -/
theorem witness_LdBStoresDigits :
    Inside 0xFFD 3 ∧ ¬Inside 0xFFE 3 ∧ ((0x2FF < 0x300 ∨ 0x300 + 3 ≤ 0x2FF) ∧
      (0x303 < 0x300 ∨ 0x300 + 3 ≤ 0x303)) := by
  unfold Inside
  decide

/-- Blocks of one and of sixteen bytes at the end of memory. -/
theorem witness_StoreRegsWritesTheBlock :
    Inside 0xFFF ((0 : Reg).val + 1) ∧ ¬Inside 0x1000 ((0 : Reg).val + 1) ∧
      Inside 0xFF0 ((15 : Reg).val + 1) ∧ ¬Inside 0xFF1 ((15 : Reg).val + 1) ∧
      (2 : Reg) ≤ 2 ∧ (0xFF < 0x100 ∨ 0x100 + ((2 : Reg).val + 1) ≤ 0xFF) ∧
      (0x103 < 0x100 ∨ 0x100 + ((2 : Reg).val + 1) ≤ 0x103) := by
  unfold Inside
  decide

/-- Blocks of one and of sixteen bytes at the end of memory, and registers in and past the block. -/
theorem witness_LoadRegsReadsTheBlock :
    Inside 0xFFF ((0 : Reg).val + 1) ∧ ¬Inside 0x1000 ((0 : Reg).val + 1) ∧
      Inside 0xFF0 ((15 : Reg).val + 1) ∧ ¬Inside 0xFF1 ((15 : Reg).val + 1) ∧
      (2 : Reg) ≤ 2 ∧ (2 : Reg) < 3 := by
  unfold Inside
  decide

/-- The longest program that fits and the shortest that does not; the bytes beside a program. -/
theorem witness_LoadProgramIsAllOrNothing :
    (List.replicate 3584 (0 : Byte)).length ≤ 3584 ∧ 3584 < (List.replicate 3585 (0 : Byte)).length ∧
      0 < (List.replicate 3584 (0 : Byte)).length ∧
      (0x1FF < 0x200 ∨ 0x200 + 2 ≤ 0x1FF) ∧ (0x202 < 0x200 ∨ 0x200 + 2 ≤ 0x202) := by
  simp only [List.length_replicate]
  decide

/-- The addresses beside the font and its last byte. -/
theorem witness_ResetRestoresEveryElement :
    (0x04F < 0x050 ∨ 0x0A0 ≤ 0x04F) ∧ (0x0A0 < 0x050 ∨ 0x0A0 ≤ 0x0A0) ∧ 79 < 80 := by decide

/-- A cycle that emits, and the counts that perform none. -/
theorem witness_RunFramePerformsItsCycles :
    cycle (.given 0) (ready 0x801F) = .next (did (.cycle (.given 0) []) (ready 0x801F)) ∧
      (0 : Int) ≤ 0 ∧ (-1 : Int) ≤ 0 := by
  refine ⟨rfl, by decide, by decide⟩

/-- A cycle that emits, and the counts that perform none. -/
theorem witness_RunFrameIsItsCycles :
    cycle (.given 0) (ready 0x801F) = .next (did (.cycle (.given 0) []) (ready 0x801F)) ∧
      (0 : Int) ≤ 0 ∧ (-1 : Int) ≤ 0 := by
  refine ⟨rfl, by decide, by decide⟩

/-- A cycle that emits Sound, so that an observer runs, one that emits Diag alone, so that none does, and a
call that is refused. -/
theorem witness_ObserverMayOnlySetKeysAndLook :
    (let s := { ready 0x0123 with st := 1 };
      cycle (.given 0) s = .next (did (.cycle (.given 0) []) s) ∧
      (did (.cycle (.given 0) []) s).events = s.events ++ [.sound] ∧ ∃ e ∈ [Event.sound], Observed e) ∧
      (let s := ready 0x801F;
        cycle (.given 0) s = .next (did (.cycle (.given 0) []) s) ∧
        (did (.cycle (.given 0) []) s).events = s.events ++ [.diag 0x801F] ∧
        ∀ e ∈ [Event.diag 0x801F], ¬Observed e) ∧
      ObserverCall.reset ∈
        [ObserverCall.reset, .loadProgram, .cycle, .runFrame, .setDrawCallback, .setSoundCallback] := by
  refine ⟨⟨rfl, rfl, by simp [Observed]⟩, ⟨rfl, rfl, by simp [Observed]⟩, by decide⟩

end Sys2Proof.Tests
end

section
/-! The statements of 00_scope.md: a cycle runs the decoded instruction, and no step touches what the host
alone sets. -/

namespace Sys2Proof.Proofs
open Sys2Proof.Machine Sys2Proof.Laws Sys2Proof.Claims

/-! ### What only the host changes: the keypad, the observers and FONTSET (R8, R42, R46) -/

/-- The fields that only host transactions set. -/
def hostState (s : State) : Vector Bool 16 × Option Observer × Option Observer × Vector Byte 80 :=
  (s.key, s.drawObs, s.soundObs, s.fontset)

@[simp] theorem hostState_announceDraw (s : State) : hostState s.announceDraw = hostState s := by
  rw [announceDraw_eq]; rfl

@[simp] theorem hostState_storeBytes (s : State) (base : Nat) (ws : List Byte) :
    hostState (s.storeBytes base ws) = hostState s := by
  rw [storeBytes_eq]; rfl

@[simp] theorem hostState_afterExecute (s : State) : hostState s.afterExecute = hostState s := by
  rcases afterExecute_eq s with ⟨-, h⟩ | ⟨-, h⟩
  · rw [h, timerStep_eq]; rfl
  · rw [h]

theorem hostState_of_onlyDraws {s t : State} (h : OnlyDraws s t) : hostState t = hostState s := by
  rw [h.1]; rfl

/-- No instruction changes the host's fields. -/
theorem hostState_of_effect {s t : State} {i : Instr} (h : Effect s i t) :
    hostState t = hostState s := by
  cases h with
  | raises | registers | delay | sound | call | ret | diag => rfl
  | cls => exact hostState_announceDraw _
  | drw _ _ _ u hu =>
    calc hostState u.announceDraw = hostState u := hostState_announceDraw u
      _ = hostState (s.setReg vf 0) := hostState_of_onlyDraws hu
      _ = hostState s := rfl
  | digits | block => exact hostState_storeBytes _ _ _

theorem hostState_of_step {s t : State} (h : step s = .next t) : hostState t = hostState s := by
  obtain ⟨-, rfl⟩ | ⟨-, -, rfl⟩ | ⟨-, op, u, -, -, hu, rfl⟩ := step_cases h
  · rfl
  · rfl
  · calc hostState u.afterExecute = hostState u := hostState_afterExecute u
      _ = hostState (started s) := hostState_of_effect (effect_of_exec hu)
      _ = hostState s := rfl

/-- Settles O20: no effect of an instruction, no fetch fault and no timer step changes the host's fields. -/
theorem stepKeepsHostState : Obligations.StepKeepsHostState := by
  intro s t h
  simpa [hostState] using hostState_of_step h

/-! ### The cycle runs the decoded instruction (R140 to R144) -/

/-- The end of a cycle, in the form in which `executes` says it. -/
theorem afterExecute_eq_ite (t : State) :
    t.afterExecute = if t.fault = none then t.timerStep else t := by
  rcases afterExecute_eq t with ⟨hf, h⟩ | ⟨hf, h⟩ <;> simp [hf, h]

/-- Executing an instruction that answers t ends the cycle as `cycle` ends it. -/
theorem executes_of_exec {i : Instr} {r : RndArg} {s t : State}
    (h : exec i (s.advance r) = .next t) : executes i r s = .next t.afterExecute := by
  rw [State.advance] at h
  rw [executes, h, afterExecute_eq_ite]

theorem executes_next (i : Instr) (r : RndArg) (s : State) : ∃ t, executes i r s = .next t := by
  obtain ⟨t, ht, -⟩ := exec_effect i (s.advance r)
  exact ⟨_, executes_of_exec ht⟩

/-- A running block that can fetch executes the instruction it fetches. -/
theorem cycle_eq_executes {s : State} {i : Instr} (r : RndArg) (hf : s.fault = none)
    (hpc : s.pc.toNat ≤ 0xFFE)
    (hi : decode (wordOfBytes (s.readByte s.pc.toNat) (s.readByte (s.pc.toNat + 1))) = i) :
    cycle r s = executes i r s := by
  obtain ⟨t, ht, -⟩ := exec_effect i (s.advance r)
  rw [executes_of_exec ht, cycle_of_fetch r hf ((fetch_eq s).trans (if_pos hpc)), hi, ht]

/-- The transaction Cycle without observer calls is the cycle from an empty event list. -/
theorem transact_cycle_nil (r : RndArg) (s : State) :
    transact (.cycle r []) s = withoutReply (cycle r s.clearEvents) := by
  rw [transact, observedCycle_nil]

/-- Settles O6: clearing the events changes neither the fetch nor the decoded instruction, so the cycle
lemma serves step, Cycle and the transaction alike. -/
theorem stepRunsTheDecodedInstruction : Obligations.StepRunsTheDecodedInstruction := by
  intro s i r hf hpc _ hi
  have hcleared (q : RndArg) : cycle q s.clearEvents = executes i q s.clearEvents :=
    cycle_eq_executes q hf hpc hi
  refine ⟨hcleared (.free s.cycles), cycle_eq_executes r hf hpc hi, ?_⟩
  obtain ⟨t, ht⟩ := executes_next i r s.clearEvents
  exact ⟨t, ht, by rw [transact_cycle_nil, hcleared, ht, withoutReply]⟩

end Sys2Proof.Proofs
end

section
/-! The statements of 10_state.md: the bound on pc and the return addresses, and the only instructions that
touch the screen and the call stack. -/

namespace Sys2Proof.Proofs
open Sys2Proof.Machine Sys2Proof.Laws Sys2Proof.Claims

/-! ### A step, through the effect of its instruction -/

/-- A step executes no instruction and changes at most the fault record and the events, or it fetches an
opcode and ends with the effect of the decoded instruction and the end of the cycle (R140, R141, R149). -/
theorem step_idle_or_effect {s t : State} (h : step s = .next t) :
    (∃ record events, t = { s with fault := record, events := events }) ∨
      (s.pc.toNat ≤ 0xFFE ∧ ∃ op u, s.fetch = .ok op ∧ Effect (started s) (decode op) u ∧
        t = u.afterExecute) := by
  obtain ⟨-, rfl⟩ | ⟨-, -, rfl⟩ | ⟨-, op, u, hop, hpc, hu, rfl⟩ := step_cases h
  · exact .inl ⟨_, _, rfl⟩
  · exact .inl ⟨_, _, rfl⟩
  · exact .inr ⟨hpc, op, u, hop, effect_of_exec hu, rfl⟩

/-- The end of a cycle touches the timers and the events alone (R146, R147). -/
theorem afterExecute_frame (t : State) :
    t.afterExecute = { t with
      dt := t.afterExecute.dt, st := t.afterExecute.st, events := t.afterExecute.events } := by
  rcases afterExecute_eq t with ⟨-, h⟩ | ⟨-, h⟩
  · rw [h, timerStep_eq]
  · rw [h]

@[simp] theorem afterExecute_pc (t : State) : t.afterExecute.pc = t.pc := by
  rw [afterExecute_frame]
@[simp] theorem afterExecute_stack (t : State) : t.afterExecute.stack = t.stack := by
  rw [afterExecute_frame]
@[simp] theorem afterExecute_sp (t : State) : t.afterExecute.sp = t.sp := by
  rw [afterExecute_frame]
@[simp] theorem afterExecute_fb (t : State) : t.afterExecute.fb = t.fb := by
  rw [afterExecute_frame]
@[simp] theorem afterExecute_drawFlag (t : State) : t.afterExecute.drawFlag = t.drawFlag := by
  rw [afterExecute_frame]

/-! ### What an instruction does to pc and the call stack (R35, R40) -/

/-- How the instructions other than CALL and RET move from s to t: the call stack is the same, and pc holds
one of the values of `NextPc`. -/
def OrdinaryControl (s t : State) : Prop :=
  t.stack = s.stack ∧ t.sp = s.sp ∧ NextPc s t.pc

/-- An instruction that writes neither pc nor the call stack. -/
theorem ordinaryControl_of_eq {s t : State} (hpc : t.pc = s.pc) (hstack : t.stack = s.stack)
    (hsp : t.sp = s.sp) : OrdinaryControl s t :=
  ⟨hstack, hsp, .inl hpc⟩

theorem ordinaryControl_storeBytes (s : State) (base : Nat) (ws : List Byte) :
    OrdinaryControl s (s.storeBytes base ws) := by
  rw [storeBytes_eq]; exact ordinaryControl_of_eq rfl rfl rfl

theorem ordinaryControl_announceDraw {s u : State} (h : OrdinaryControl s u) :
    OrdinaryControl s u.announceDraw := by
  simpa [OrdinaryControl] using h

theorem ordinaryControl_of_onlyDraws {s u : State} (h : OnlyDraws s u) : OrdinaryControl s u := by
  rw [h.1]; exact ordinaryControl_of_eq rfl rfl rfl

/-- Everything an instruction can do to pc and the call stack: CALL pushes pc, which is A + 2, RET takes pc
from an entry that it leaves in place, and every other instruction has ordinary control. -/
theorem control_of_effect {s t : State} {i : Instr} (h : Effect s i t) :
    OrdinaryControl s t ∨
      (∃ nnn, i = .callAddr nnn ∧ t.pc = addrWord nnn ∧
        ∃ k : Fin 16, t.stack = s.stack.set k.val s.pc) ∨
      (∃ z, i = .ret z ∧ t.stack = s.stack ∧ ∃ k : Fin 16, t.pc = s.stack[k.val]) := by
  cases h with
  | raises => exact .inl ⟨rfl, rfl, .inr (.inr (.inl rfl))⟩
  | registers _ _ _ _ _ hpc => exact .inl ⟨rfl, rfl, hpc⟩
  | delay | sound | diag => exact .inl (ordinaryControl_of_eq rfl rfl rfl)
  | call nnn hsp => exact .inr (.inl ⟨nnn, rfl, rfl, ⟨s.sp.val, hsp⟩, rfl⟩)
  | ret z hsp => exact .inr (.inr ⟨z, rfl, rfl, ⟨s.sp.val - 1, by omega⟩, rfl⟩)
  | cls => exact .inl (ordinaryControl_announceDraw (ordinaryControl_of_eq rfl rfl rfl))
  | drw _ _ _ u hu =>
    have hdrawn : OrdinaryControl (s.setReg vf 0) u := ordinaryControl_of_onlyDraws hu
    exact .inl (ordinaryControl_announceDraw hdrawn)
  | digits | block => exact .inl (ordinaryControl_storeBytes _ _ _)

/-! ### The bound on pc and the return addresses (R37, R174, R241) -/

/-- From the pc of an executing instruction, A + 2 with A at most 0xFFE, no ordinary pc exceeds the bound,
and the rewind to A does not wrap. -/
theorem nextPc_bounded {s : State} {pc : Word} (h : NextPc s pc) (hlow : 2 ≤ s.pc.toNat)
    (hhigh : s.pc.toNat ≤ 0x1000) : pc.toNat ≤ 0x10FE := by
  obtain rfl | rfl | rfl | hle := h
  · omega
  · bv_omega
  · bv_omega
  · exact hle

/-- Storing a return address within the bound keeps every entry within it. -/
theorem stack_set_bounded {stack : Vector Word 16} {w : Word} (hw : w.toNat ≤ 0x1000)
    (h : ∀ k : Fin 16, stack[k.val].toNat ≤ 0x1000) (j k : Fin 16) :
    (stack.set j.val w)[k.val].toNat ≤ 0x1000 := by
  rw [Vector.getElem_set]
  split
  · exact hw
  · exact h k

/-- While an instruction executes pc lies between 2 and 0x1000, which is what makes the bound inductive:
CALL pushes no more than 0x1000, and RET takes pc from the bounded entries. -/
theorem pcBounded_of_effect {s t : State} {i : Instr} (h : Effect s i t) (hlow : 2 ≤ s.pc.toNat)
    (hhigh : s.pc.toNat ≤ 0x1000) (hstack : ∀ k : Fin 16, s.stack[k.val].toNat ≤ 0x1000) :
    t.pcBounded := by
  obtain ⟨hs, -, hpc⟩ | ⟨nnn, -, hpc, j, hs⟩ | ⟨z, -, hs, j, hpc⟩ := control_of_effect h <;>
    simp only [State.pcBounded, hs]
  · exact ⟨nextPc_bounded hpc hlow hhigh, hstack⟩
  · refine ⟨?_, stack_set_bounded hhigh hstack j⟩
    rw [hpc, addrWord_toNat]
    have := nnn.isLt
    omega
  · refine ⟨?_, hstack⟩
    have := hstack j
    rw [hpc]
    omega

theorem pcBounded_afterExecute {t : State} (h : t.pcBounded) : t.afterExecute.pcBounded := by
  simpa [State.pcBounded] using h

/-- The advance of a fetch that succeeds does not wrap (R83, R142). -/
theorem started_pc_toNat {s : State} (h : s.pc.toNat ≤ 0xFFE) :
    (started s).pc.toNat = s.pc.toNat + 2 := by
  change (s.pc + 2).toNat = _
  bv_omega

/-- Settles O14: an instruction executes only at pc up to 0xFFE, so pc is at most 0x1000 while it runs. -/
theorem stepKeepsPcBounded : Obligations.StepKeepsPcBounded := by
  intro s t hs h
  obtain ⟨record, events, rfl⟩ | ⟨hpc, op, u, -, hu, rfl⟩ := step_idle_or_effect h
  · exact hs
  · have hstarted := started_pc_toNat hpc
    exact pcBounded_afterExecute
      (pcBounded_of_effect hu (by omega) (by omega) hs.2)

/-! ### Who touches the call stack (R40) -/

/-- Settles O22: the end of the cycle leaves the call stack alone, so a change of it is the instruction's. -/
theorem onlyCallAndRetTouchTheStack : Obligations.OnlyCallAndRetTouchTheStack := by
  intro s t h
  obtain ⟨record, events, rfl⟩ | ⟨-, op, u, hop, hu, rfl⟩ := step_idle_or_effect h
  · exact ⟨fun hne => absurd rfl hne, fun hne => absurd rfl hne⟩
  rw [afterExecute_stack, afterExecute_sp]
  obtain ⟨hstack, hsp, -⟩ | ⟨nnn, hi, -⟩ | ⟨z, hi, hstack, -⟩ := control_of_effect hu
  · exact ⟨fun hne => absurd hstack hne, fun hne => absurd hsp hne⟩
  · exact ⟨fun _ => ⟨op, nnn, hop, hi⟩, fun _ => ⟨op, hop, .inl ⟨nnn, hi⟩⟩⟩
  · exact ⟨fun hne => absurd hstack hne, fun _ => ⟨op, hop, .inr ⟨z, hi⟩⟩⟩

/-! ### Who touches the screen (R45, R265) -/

/-- An instruction leaves the framebuffer and the draw flag alone, or it is CLS or DRW and sets the flag. -/
theorem screen_of_effect {s t : State} {i : Instr} (h : Effect s i t) :
    (t.fb = s.fb ∧ t.drawFlag = s.drawFlag) ∨ (draws i = true ∧ t.drawFlag = true) := by
  cases h with
  | raises | registers | delay | sound | call | ret | diag => exact .inl ⟨rfl, rfl⟩
  | cls | drw => exact .inr ⟨rfl, announceDraw_drawFlag _⟩
  | digits | block => rw [storeBytes_eq]; exact .inl ⟨rfl, rfl⟩

/-- Settles O19: the end of the cycle leaves the screen alone, so a change of it is the instruction's. -/
theorem onlyClsAndDrwTouchTheScreen : Obligations.OnlyClsAndDrwTouchTheScreen := by
  intro s t h hchanged
  obtain ⟨record, events, rfl⟩ | ⟨-, op, u, hop, hu, rfl⟩ := step_idle_or_effect h
  · simp at hchanged
  rw [afterExecute_fb, afterExecute_drawFlag] at hchanged
  obtain ⟨hfb, hflag⟩ | ⟨hdraws, hflag⟩ := screen_of_effect hu
  · exact absurd hchanged (not_or.2 ⟨not_not.2 hfb, not_not.2 hflag⟩)
  · exact ⟨(afterExecute_drawFlag u).trans hflag, op, hop, hdraws⟩

end Sys2Proof.Proofs
end

section
/-! The statements of 20_memory.md: the fetch, the canonical form of memory, and the only instructions that
write memory. -/

namespace Sys2Proof.Proofs
open Sys2Proof.Machine Sys2Proof.Laws Sys2Proof.Claims

/-! ### The fetch (R83, R84) -/

@[simp] theorem highByte_wordOfBytes (hi lo : Byte) : (wordOfBytes hi lo).extractLsb' 8 8 = hi :=
  BitVec.extractLsb'_append_eq_left

@[simp] theorem lowByte_wordOfBytes (hi lo : Byte) : (wordOfBytes hi lo).extractLsb' 0 8 = lo :=
  BitVec.extractLsb'_append_eq_right

/-- From 0xFFF on, the lowest fetch address outside memory is pc + 1 at 0xFFF and pc above it. -/
theorem fetchInfo_eq {pc : Nat} (h : 0xFFF ≤ pc) :
    max pc 4096 = if pc = 0xFFF then pc + 1 else pc := by
  split <;> omega

/-- A step of a running block that cannot fetch enters the faulted state at pc, with no opcode. -/
theorem step_of_fetch_error {s : State} (hf : s.fault = none) (hpc : 0xFFF ≤ s.pc.toNat) :
    step s = .next (s.clearEvents.enterFault .memBounds s.pc none (max s.pc.toNat 4096)) :=
  cycle_of_fetch_error _ hf ((fetch_eq s).trans (if_neg (by omega)))

/-- Settles O7: the closed form of the fetch gives both sides. -/
theorem fetchReadsTwoBytesOrFaults : Obligations.FetchReadsTwoBytesOrFaults := by
  refine ⟨fun s hpc => ?_, fun s hf hpc => ?_⟩
  · exact ⟨_, (fetch_eq s).trans (if_pos hpc), highByte_wordOfBytes _ _, lowByte_wordOfBytes _ _⟩
  · exact ⟨_, fetchInfo_eq hpc, step_of_fetch_error hf hpc⟩

/-! ### What an instruction does to memory (R80, R81) -/

/-- Memory has the same contents in t as in s, in the same representation. -/
def SameMemory (s t : State) : Prop := t.fontset = s.fontset ∧ t.mem = s.mem

theorem SameMemory.readByte {s t : State} (h : SameMemory s t) (a : Nat) :
    t.readByte a = s.readByte a := by
  rw [State.readByte, h.1, h.2]; rfl

theorem SameMemory.memCanonical {s t : State} (h : SameMemory s t) (hs : s.memCanonical) :
    t.memCanonical := by
  rwa [State.memCanonical, h.1, h.2]

theorem sameMemory_announceDraw (s : State) : SameMemory s s.announceDraw :=
  ⟨announceDraw_fontset s, announceDraw_mem s⟩

theorem sameMemory_afterExecute (s : State) : SameMemory s s.afterExecute := by
  rw [afterExecute_frame]; exact ⟨rfl, rfl⟩

/-- Drawing leaves memory alone, and so does the announcement that ends it. -/
theorem sameMemory_draw {s u : State} (h : OnlyDraws s u) : SameMemory s u.announceDraw := by
  rw [h.1]; exact sameMemory_announceDraw _

/-- t is s with a block of at most sixteen bytes stored at I, all of it inside memory. -/
def StoresAtI (s t : State) : Prop :=
  ∃ ws : List Byte, ws.length ≤ 16 ∧ s.i.toNat + ws.length ≤ 4096 ∧ t = s.storeBytes s.i.toNat ws

theorem regsUpTo_length (s : State) (x : Reg) : (s.regsUpTo x).length = x.val + 1 := by
  simp [State.regsUpTo]

/-- Everything an instruction can do to memory: leave it alone, or, when it is LD B or LD [I], store a block
at I that the address check has found inside memory. -/
theorem memory_of_effect {s t : State} {i : Instr} (h : Effect s i t) :
    SameMemory s t ∨ (stores i = true ∧ StoresAtI s t) := by
  cases h with
  | raises | registers | delay | sound | call | ret | diag => exact .inl ⟨rfl, rfl⟩
  | cls => exact .inl (sameMemory_announceDraw s.clearScreen)
  | drw _ _ _ u hu => exact .inl (sameMemory_draw (s := s.setReg vf 0) hu)
  | digits x hin => exact .inr ⟨rfl, bcdDigits (s.reg x), by simp [bcdDigits], hin, rfl⟩
  | block x hin =>
    have hlen := regsUpTo_length s x
    exact .inr ⟨rfl, s.regsUpTo x, by omega, by omega, rfl⟩

/-! ### The canonical form (log entry 13) -/

theorem memCanonical_storesAtI {s t : State} (h : StoresAtI s t) (hs : s.memCanonical) :
    t.memCanonical := by
  obtain ⟨ws, -, hin, rfl⟩ := h
  have hfont : (s.storeBytes s.i.toNat ws).fontset = s.fontset := by rw [storeBytes_eq]
  rw [State.memCanonical, hfont]
  exact storeBytes_wf s s.i.toNat ws hs hin

theorem memCanonical_of_effect {s t : State} {i : Instr} (h : Effect s i t) (hs : s.memCanonical) :
    t.memCanonical := by
  obtain hsame | ⟨-, hstores⟩ := memory_of_effect h
  · exact hsame.memCanonical hs
  · exact memCanonical_storesAtI hstores hs

/-- Settles O13: the only memory writes of an instruction are block stores inside memory, each a sequence of
one-byte writes that keep the form, and the rest of the step leaves memory alone. -/
theorem stepKeepsMemoryCanonical : Obligations.StepKeepsMemoryCanonical := by
  intro s t hs h
  obtain ⟨record, events, rfl⟩ | ⟨-, op, u, -, hu, rfl⟩ := step_idle_or_effect h
  · exact hs
  · have hu' : u.memCanonical := memCanonical_of_effect hu hs
    exact (sameMemory_afterExecute u).memCanonical hu'

/-! ### Who writes memory (R80, R81) -/

/-- A byte that a store at I changes lies in the sixteen bytes from I on, and inside memory. -/
theorem address_of_storesAtI {s t : State} {a : Nat} (h : StoresAtI s t)
    (hne : t.readByte a ≠ s.readByte a) :
    s.i.toNat ≤ a ∧ a < s.i.toNat + 16 ∧ a < 4096 := by
  obtain ⟨ws, hlen, hin, rfl⟩ := h
  rw [readByte_storeBytes] at hne
  split at hne
  · omega
  · exact absurd rfl hne

/-- Settles O21: the end of the cycle leaves memory alone, so a changed byte is the instruction's, which
stored a block at I. -/
theorem onlyStoresWriteMemory : Obligations.OnlyStoresWriteMemory := by
  intro s t a h hne
  obtain ⟨record, events, rfl⟩ | ⟨-, op, u, hop, hu, rfl⟩ := step_idle_or_effect h
  · exact absurd rfl hne
  rw [(sameMemory_afterExecute u).readByte] at hne
  obtain hsame | ⟨hi, hstores⟩ := memory_of_effect hu
  · exact absurd (hsame.readByte a) hne
  · obtain ⟨hlow, hhigh, hmem⟩ := address_of_storesAtI hstores hne
    exact ⟨hlow, hhigh, hmem, op, hop, hi⟩

end Sys2Proof.Proofs
end

section
/-! The statements of 30_encoding.md: decoding and encoding are inverse, the decoder is the opcode map read
in order, and every word and every step is answered. -/

namespace Sys2Proof.Proofs
open Sys2Proof.Machine Sys2Proof.Laws Sys2Proof.Claims

/-! ### The unimplemented words (R116, R117, R118, R122) -/

/-- The seven values of n that R116 leaves out, by going through all sixteen. -/
theorem decodeFamily8_eq_unimplemented_iff (op : Word) :
    decodeFamily8 op = .unimplemented op ↔ opN op ∈ [0x8, 0x9, 0xA, 0xB, 0xC, 0xD, 0xF] := by
  unfold decodeFamily8
  obtain h | h | h | h | h | h | h | h | h | h | h | h | h | h | h | h := nibble_cases (opN op) <;>
    simp [h]

theorem decodeFamilyE_eq_unimplemented_iff (op : Word) :
    decodeFamilyE op = .unimplemented op ↔ opKK op ∉ [0x9E, 0xA1] := by
  simp [decodeFamilyE, ite_eq_iff]

theorem decodeFamilyF_eq_unimplemented_iff (op : Word) :
    decodeFamilyF op = .unimplemented op ↔
      opKK op ∉ [0x07, 0x0A, 0x15, 0x18, 0x1E, 0x29, 0x33, 0x55, 0x65] := by
  simp [decodeFamilyF, ite_eq_iff]

theorem decodeFamily0_ne_unimplemented (op : Word) : decodeFamily0 op ≠ .unimplemented op := by
  simp [decodeFamily0, ite_eq_iff]

/-- Only the families 0x8, 0xE and 0xF hold unimplemented words. -/
theorem decode_ne_unimplemented {op : Word} (h8 : opFamily op ≠ 0x8) (hE : opFamily op ≠ 0xE)
    (hF : opFamily op ≠ 0xF) : decode op ≠ .unimplemented op := by
  obtain h | h | h | h | h | h | h | h | h | h | h | h | h | h | h | h := nibble_cases (opFamily op)
  · rw [decode_family0 h]; exact decodeFamily0_ne_unimplemented op
  · simp [decode_family1 h]
  · simp [decode_family2 h]
  · simp [decode_family3 h]
  · simp [decode_family4 h]
  · simp [decode_family5 h]
  · simp [decode_family6 h]
  · simp [decode_family7 h]
  · exact absurd h h8
  · simp [decode_family9 h]
  · simp [decode_familyA h]
  · simp [decode_familyB h]
  · simp [decode_familyC h]
  · simp [decode_familyD h]
  · exact absurd h hE
  · exact absurd h hF

/-- Settles O4: each of the families 0x8, 0xE and 0xF by its own selector, and no other family has an
unimplemented word. -/
theorem unimplementedWordsAreTheUnlistedOnes : Obligations.UnimplementedWordsAreTheUnlistedOnes := by
  intro op
  by_cases h8 : opFamily op = 0x8
  · rw [decode_family8 h8, decodeFamily8_eq_unimplemented_iff]; simp [h8]
  by_cases hE : opFamily op = 0xE
  · rw [decode_familyE hE, decodeFamilyE_eq_unimplemented_iff]; simp [hE]
  by_cases hF : opFamily op = 0xF
  · rw [decode_familyF hF, decodeFamilyF_eq_unimplemented_iff]; simp [hF]
  refine iff_of_false (decode_ne_unimplemented h8 hE hF) ?_
  rintro (⟨h, -⟩ | ⟨h, -⟩ | ⟨h, -⟩)
  exacts [h8 h, hE h, hF h]

/-- The same in terms of the check in `Instr.wellFormed`. -/
theorem decode_eq_unimplemented_iff (op : Word) :
    decode op = .unimplemented op ↔ unlistedOpcode op = true := by
  rw [unimplementedWordsAreTheUnlistedOnes op, unlistedOpcode_eq]
  simp only [Bool.or_eq_true, Bool.and_eq_true, beq_iff_eq, Bool.not_eq_true', List.contains_iff_mem,
    ← Bool.not_eq_true, or_assoc]

/-! ### Encoding, then decoding (R111, R112, R121) -/

theorem sysField_iff (nnn : Addr12) :
    sysField nnn = true ↔ nnn.extractLsb' 0 8 ≠ 0xE0 ∧ nnn.extractLsb' 0 8 ≠ 0xEE := by
  simp only [sysField, Bool.and_eq_true, bne_iff_ne]

/-- A word of SYS falls through the two selectors of family 0x0 (R115). -/
theorem decodeFamily0_of_sysField {nnn : Addr12} (h : sysField nnn = true) :
    decodeFamily0 (formatNNN 0x0 nnn) = .sys nnn := by
  obtain ⟨hcls, hret⟩ := (sysField_iff nnn).1 h
  rw [decodeFamily0, opKK_formatNNN, if_neg hcls, if_neg hret, opNNN_formatNNN]

/-- Settles O1: the family field of the encoding names the handler, its selector the instruction, and each
operand is read from the field it was put in. -/
theorem encodeThenDecode : Obligations.EncodeThenDecode := by
  intro i hi
  cases i with
  | unimplemented op => exact (decode_eq_unimplemented_iff op).2 hi
  | sys nnn =>
    rw [encode, decode_family0 (opFamily_formatNNN _ _)]
    exact decodeFamily0_of_sysField hi
  | cls z | ret z => simp [encode, decode_family0, decodeFamily0]
  | ldReg x y | orReg x y | andReg x y | xorReg x y | addReg x y | subReg x y | shr x y | subn x y
  | shl x y => simp [encode, decode_family8, decodeFamily8]
  | skp x | sknp x => simp [encode, decode_familyE, decodeFamilyE]
  | ldVxDT x | ldVxK x | ldDTVx x | ldSTVx x | addI x | ldF x | ldB x | storeRegs x | loadRegs x =>
    simp [encode, decode_familyF, decodeFamilyF]
  | jpAddr nnn | callAddr nnn | ldI nnn | jpV0 nnn =>
    simp [encode, decode_family1, decode_family2, decode_familyA, decode_familyB]
  | seByte x kk | sneByte x kk | ldByte x kk | addByte x kk | rnd x kk =>
    simp [encode, decode_family3, decode_family4, decode_family6, decode_family7, decode_familyC]
  | seReg x y n | sneReg x y n | drw x y n =>
    simp [encode, decode_family5, decode_family9, decode_familyD]

/-! ### Decoding, then encoding (R122, R124) -/

/-- The opcode of i is op, and i is the meaning of an opcode. -/
def IsMeaningOf (i : Instr) (op : Word) : Prop := i.wellFormed = true ∧ encode i = op

/-- i keeps op whole as an unimplemented opcode, or is the meaning of op. -/
def KeepsWord (op : Word) (i : Instr) : Prop := i = .unimplemented op ∨ IsMeaningOf i op

/-- A branch of a handler: the word is kept where the selector matches, and where a later branch decides. -/
theorem KeepsWord.ite {op : Word} {c : Prop} [Decidable c] {i j : Instr} (hi : c → IsMeaningOf i op)
    (hj : KeepsWord op j) : KeepsWord op (if c then i else j) := by
  split
  case isTrue h => exact .inr (hi h)
  case isFalse => exact hj

theorem formatNNN_of_fields {op : Word} {f : Nibble} (hf : opFamily op = f) :
    formatNNN f (opNNN op) = op := by
  rw [← hf, formatNNN_fields]

theorem formatXKK_of_fields {op : Word} {f : Nibble} {kk : Byte} (hf : opFamily op = f)
    (hkk : opKK op = kk) : formatXKK f (regField (opX op)) kk = op := by
  rw [← hf, ← hkk, formatXKK_fields]

theorem formatZKK_of_fields {op : Word} {f : Nibble} {kk : Byte} (hf : opFamily op = f)
    (hkk : opKK op = kk) : formatXKK f (opHigh op) kk = op := by
  rw [← hf, ← hkk, formatZKK_fields]

theorem formatXYN_of_fields {op : Word} {f n : Nibble} (hf : opFamily op = f) (hn : opN op = n) :
    formatXYN f (regField (opX op)) (regField (opY op)) n = op := by
  rw [← hf, ← hn, formatXYN_fields]

theorem isMeaningOf_decodeFamily0 {op : Word} (hf : opFamily op = 0x0) :
    IsMeaningOf (decodeFamily0 op) op := by
  unfold decodeFamily0
  split_ifs with hcls hret
  · exact ⟨rfl, formatZKK_of_fields hf hcls⟩
  · exact ⟨rfl, formatZKK_of_fields hf hret⟩
  · have hsys : sysField (opNNN op) = true := by
      rw [sysField_iff, nnn_lowByte]; exact ⟨hcls, hret⟩
    exact ⟨hsys, formatNNN_of_fields hf⟩

theorem keepsWord_decodeFamily8 {op : Word} (hf : opFamily op = 0x8) :
    KeepsWord op (decodeFamily8 op) := by
  unfold decodeFamily8
  iterate 9 refine .ite (fun h => ⟨rfl, formatXYN_of_fields hf h⟩) ?_
  exact .inl rfl

theorem keepsWord_decodeFamilyE {op : Word} (hf : opFamily op = 0xE) :
    KeepsWord op (decodeFamilyE op) := by
  unfold decodeFamilyE
  iterate 2 refine .ite (fun h => ⟨rfl, formatXKK_of_fields hf h⟩) ?_
  exact .inl rfl

theorem keepsWord_decodeFamilyF {op : Word} (hf : opFamily op = 0xF) :
    KeepsWord op (decodeFamilyF op) := by
  unfold decodeFamilyF
  iterate 9 refine .ite (fun h => ⟨rfl, formatXKK_of_fields hf h⟩) ?_
  exact .inl rfl

/-- A word decodes to itself as an unimplemented opcode, or it is the opcode of what it decodes to. -/
theorem keepsWord_decode (op : Word) : KeepsWord op (decode op) := by
  obtain hf | hf | hf | hf | hf | hf | hf | hf | hf | hf | hf | hf | hf | hf | hf | hf :=
    nibble_cases (opFamily op)
  · rw [decode_family0 hf]; exact .inr (isMeaningOf_decodeFamily0 hf)
  · rw [decode_family1 hf]; exact .inr ⟨rfl, formatNNN_of_fields hf⟩
  · rw [decode_family2 hf]; exact .inr ⟨rfl, formatNNN_of_fields hf⟩
  · rw [decode_family3 hf]; exact .inr ⟨rfl, formatXKK_of_fields hf rfl⟩
  · rw [decode_family4 hf]; exact .inr ⟨rfl, formatXKK_of_fields hf rfl⟩
  · rw [decode_family5 hf]; exact .inr ⟨rfl, formatXYN_of_fields hf rfl⟩
  · rw [decode_family6 hf]; exact .inr ⟨rfl, formatXKK_of_fields hf rfl⟩
  · rw [decode_family7 hf]; exact .inr ⟨rfl, formatXKK_of_fields hf rfl⟩
  · rw [decode_family8 hf]; exact keepsWord_decodeFamily8 hf
  · rw [decode_family9 hf]; exact .inr ⟨rfl, formatXYN_of_fields hf rfl⟩
  · rw [decode_familyA hf]; exact .inr ⟨rfl, formatNNN_of_fields hf⟩
  · rw [decode_familyB hf]; exact .inr ⟨rfl, formatNNN_of_fields hf⟩
  · rw [decode_familyC hf]; exact .inr ⟨rfl, formatXKK_of_fields hf rfl⟩
  · rw [decode_familyD hf]; exact .inr ⟨rfl, formatXYN_of_fields hf rfl⟩
  · rw [decode_familyE hf]; exact keepsWord_decodeFamilyE hf
  · rw [decode_familyF hf]; exact keepsWord_decodeFamilyF hf

/-- Settles O2: an unimplemented word is kept whole, and any other is rebuilt from its fields. -/
theorem decodeThenEncode : Obligations.DecodeThenEncode := by
  intro op
  obtain h | h := keepsWord_decode op
  · rw [h]
    exact ⟨(decode_eq_unimplemented_iff op).1 h, rfl⟩
  · exact h

/-! ### Sample words (R121) -/

/-- Settles O5: nineteen closed words, evaluated. -/
theorem sampleWordsDecode : Obligations.SampleWordsDecode := by
  unfold Obligations.SampleWordsDecode
  decide

/-! ### The opcode map, read in order (R121) -/

/-- What the first row of a map that matches op builds from it. -/
def buildFirst (rows : List OpcodeRow) (op : Word) : Option Instr :=
  (rows.find? (fun row => op &&& row.mask == row.pattern)).map (fun row => row.build op)

theorem buildFirst_cons (mask pattern : Word) (build : Word → Instr) (rows : List OpcodeRow)
    (op : Word) :
    buildFirst (⟨mask, pattern, build⟩ :: rows) op =
      if op &&& mask = pattern then some (build op) else buildFirst rows op := by
  by_cases h : op &&& mask = pattern <;> simp [buildFirst, h]

/-- A match of mask 0xF000 compares the family field. -/
theorem match_family {op pattern : Word} (h : pattern &&& 0xF000#16 = pattern) :
    op &&& 0xF000#16 = pattern ↔ opFamily op = pattern.extractLsb' 12 4 := by
  rw [← mask_family]
  exact Eq.congr_right (h.symm.trans (and_maskFamily pattern))

/-- A match of mask 0xF00F compares the family field and n. -/
theorem match_familyN {op pattern : Word} (h : pattern &&& 0xF00F#16 = pattern) :
    op &&& 0xF00F#16 = pattern ↔
      opFamily op = pattern.extractLsb' 12 4 ∧ opN op = pattern.extractLsb' 0 4 := by
  rw [← mask_familyN]
  exact Eq.congr_right (h.symm.trans (and_maskFamilyN pattern))

/-- A match of mask 0xF0FF compares the family field and kk. -/
theorem match_familyKK {op pattern : Word} (h : pattern &&& 0xF0FF#16 = pattern) :
    op &&& 0xF0FF#16 = pattern ↔
      opFamily op = pattern.extractLsb' 12 4 ∧ opKK op = pattern.extractLsb' 0 8 := by
  rw [← mask_familyKK]
  exact Eq.congr_right (h.symm.trans (and_maskFamilyKK pattern))

/-- Within a family, the rows of the map are the branches of its handler, in the same order. -/
theorem buildFirst_opcodeMap (op : Word) : buildFirst opcodeMap op = some (decode op) := by
  simp only [opcodeMap, buildFirst_cons, match_family, match_familyN, match_familyKK, decode,
    decodeFamily0, decodeFamily8, decodeFamilyE, decodeFamilyF, apply_ite some,
    BitVec.ofNat_eq_ofNat, BitVec.reduceAnd, BitVec.reduceExtractLsb', BitVec.and_zero, if_true]
  obtain h | h | h | h | h | h | h | h | h | h | h | h | h | h | h | h := nibble_cases (opFamily op) <;>
    simp only [h, BitVec.ofNat_eq_ofNat, BitVec.reduceEq, true_and, false_and, if_true, if_false]

/-- Settles O3: the map's first match builds what the decoder answers. -/
theorem decodeIsFirstMatchingRow : Obligations.DecodeIsFirstMatchingRow := by
  intro op
  obtain ⟨row, hrow, hbuild⟩ := Option.map_eq_some_iff.1 (buildFirst_opcodeMap op)
  exact ⟨row, hrow, hbuild.symm⟩

/-! ### Every step is answered (R122, R144, R151) -/

theorem cycle_next (r : RndArg) (s : State) : ∃ t, cycle r s = .next t := by
  by_cases hf : s.fault = none
  · by_cases hpc : s.pc.toNat ≤ 0xFFE
    · rw [cycle_eq_executes r hf hpc rfl]
      exact executes_next _ r s
    · exact ⟨_, cycle_of_fetch_error r hf ((fetch_eq s).trans (if_neg hpc))⟩
  · exact ⟨s, cycle_of_fault r hf⟩

/-- Settles O9: a faulted block, a fetch fault and every instruction answer a next state. -/
theorem stepAlwaysAnswersNext : Obligations.StepAlwaysAnswersNext :=
  fun s => cycle_next (.free s.cycles) s.clearEvents

end Sys2Proof.Proofs
end

section
/-! The statements of 40_cycle_dispatch.md: the timer step, the events of a cycle and their order, what a
running observer may call, and RunFrame as its cycles in sequence. -/

namespace Sys2Proof.Proofs
open Sys2Proof.Machine Sys2Proof.Laws Sys2Proof.Claims

/-! ### A faulted block (R149) -/

/-- Settles O8: step is a cycle of the block with its events cleared, which is as faulted as before. -/
theorem faultedBlockDoesNothing : Obligations.FaultedBlockDoesNothing :=
  fun s h => ⟨cycle_of_fault (s := s.clearEvents) _ h, fun r => cycle_of_fault r h⟩

/-! ### The timer step (R146, R147) -/

/-- Counting down is subtraction of natural numbers. -/
theorem countDown_toNat (t : Byte) : (countDown t).toNat = t.toNat - 1 := by
  unfold countDown
  split
  · simp [*]
  · bv_omega

/-- What the timer step emits: Sound when ST goes from 1 to 0 and a sound observer is registered. -/
def tickEvents (s : State) : List Event := if s.st = 1 ∧ s.soundObs ≠ none then [.sound] else []

theorem timerStep_events_eq (s : State) : s.timerStep.events = s.events ++ tickEvents s := by
  simp only [timerStep_events, tickEvents, Option.isSome_iff_ne_none]
  split
  · rfl
  · exact (List.append_nil _).symm

theorem tickEvents_cases (s : State) : tickEvents s = [] ∨ tickEvents s = [.sound] :=
  (ite_eq_or_eq _ _ _).symm

theorem sound_mem_tickEvents (s : State) :
    Event.sound ∈ tickEvents s ↔ s.st = 1 ∧ s.soundObs ≠ none := by
  simp [tickEvents]

/-- The timer step as one record update, with its events appended. -/
theorem timerStep_eq_tick (s : State) : s.timerStep =
    { s with dt := countDown s.dt, st := countDown s.st, events := s.events ++ tickEvents s } := by
  rw [← timerStep_events_eq, timerStep_eq]

/-- Settles O10: the two timers are counted down, and the tick's events are appended. -/
theorem timerStepCountsDown : Obligations.TimerStepCountsDown :=
  fun s => ⟨countDown s.dt, countDown s.st, countDown_toNat _, countDown_toNat _, timerStep_eq_tick s⟩

/-! ### What an instruction does to the timers (R41, R292, R293) -/

theorem dtBeforeTick_of_leavesTimers {i : Instr} (h : LeavesTimers i) (s : State) :
    dtBeforeTick i s = s.dt := by
  unfold dtBeforeTick
  split
  · exact absurd rfl (h _).1
  · rfl

theorem stBeforeTick_of_leavesTimers {i : Instr} (h : LeavesTimers i) (s : State) :
    stBeforeTick i s = s.st := by
  unfold stBeforeTick
  split
  · exact absurd rfl (h _).2
  · rfl

/-- An instruction that completes leaves in the timers the values from which they count down. -/
theorem timers_of_effect {s t : State} {i : Instr} (h : Effect s i t) (ht : t.fault = none) :
    t.dt = dtBeforeTick i s ∧ t.st = stBeforeTick i s := by
  cases h with
  | raises => cases ht
  | registers _ _ _ _ hi =>
    exact ⟨(dtBeforeTick_of_leavesTimers hi s).symm, (stBeforeTick_of_leavesTimers hi s).symm⟩
  | delay | sound | call | ret | diag => exact ⟨rfl, rfl⟩
  | cls => exact ⟨announceDraw_dt _, announceDraw_st _⟩
  | drw _ _ _ u hu =>
    have hdt : u.dt = s.dt := by rw [hu.1]; rfl
    have hst : u.st = s.st := by rw [hu.1]; rfl
    exact ⟨(announceDraw_dt u).trans hdt, (announceDraw_st u).trans hst⟩
  | digits | block => rw [storeBytes_eq]; exact ⟨rfl, rfl⟩

/-! ### What an instruction emits (R148) -/

/-- The events es that an instruction i may emit on the way to t without faulting. -/
def ExecuteEmits (i : Instr) (t : State) (es : List Event) : Prop :=
  es = [] ∨ (draws i = true ∧ es = [.draw t.screen 64 32]) ∨
    ∃ op, i = .unimplemented op ∧ es = [.diag op]

theorem sound_notMem_of_executeEmits {i : Instr} {t : State} {es : List Event}
    (h : ExecuteEmits i t es) : Event.sound ∉ es := by
  obtain rfl | ⟨-, rfl⟩ | ⟨op, -, rfl⟩ := h <;> simp

/-- An instruction that leaves the event list as it was. -/
theorem executeEmits_of_events_eq {s t : State} {i : Instr} (h : t.events = s.events) :
    ∃ es, ExecuteEmits i t es ∧ t.events = s.events ++ es :=
  ⟨[], .inl rfl, by simpa using h⟩

/-- The announcement that ends CLS and DRW emits at most one Draw, of the framebuffer it leaves. -/
theorem executeEmits_announceDraw {i : Instr} (hi : draws i = true) (u : State) :
    ∃ es, ExecuteEmits i u.announceDraw es ∧ u.announceDraw.events = u.events ++ es := by
  have hscreen : u.announceDraw.screen = u.screen := screen_congr (announceDraw_fb u)
  rw [announceDraw_events]
  split
  · exact ⟨_, .inr (.inl ⟨hi, rfl⟩), by rw [hscreen]; rfl⟩
  · exact ⟨[], .inl rfl, (List.append_nil _).symm⟩

/-- An instruction of a running block faults and emits its Fault alone, or completes and emits what
`ExecuteEmits` says. -/
theorem events_of_effect {s t : State} {i : Instr} (h : Effect s i t) (hs : s.fault = none) :
    (∃ record, t.fault = some record ∧ t.events = s.events ++ [.fault record]) ∨
      (t.fault = none ∧ ∃ es, ExecuteEmits i t es ∧ t.events = s.events ++ es) := by
  cases h with
  | raises => exact .inl ⟨_, rfl, rfl⟩
  | registers | delay | sound | call | ret => exact .inr ⟨hs, executeEmits_of_events_eq rfl⟩
  | cls => exact .inr ⟨(announceDraw_fault _).trans hs, executeEmits_announceDraw rfl s.clearScreen⟩
  | drw x y n u hu =>
    have hfault : u.fault = s.fault := by rw [hu.1]; rfl
    have hevents : u.events = s.events := by rw [hu.1]; rfl
    rw [← hevents]
    exact .inr ⟨(announceDraw_fault u).trans (hfault.trans hs), executeEmits_announceDraw rfl u⟩
  | digits | block =>
    rw [storeBytes_eq]
    exact .inr ⟨hs, executeEmits_of_events_eq rfl⟩
  | diag op => exact .inr ⟨hs, [.diag op], .inr (.inr ⟨op, rfl, rfl⟩), rfl⟩

theorem executeEmits_of_effect {s t : State} {i : Instr} (h : Effect s i t) (hs : s.fault = none)
    (ht : t.fault = none) : ∃ es, ExecuteEmits i t es ∧ t.events = s.events ++ es := by
  obtain ⟨record, hrecord, -⟩ | ⟨-, hemits⟩ := events_of_effect h hs
  · simp [ht] at hrecord
  · exact hemits

/-- Settles O26: the meaning is the emission alone. -/
theorem unimplementedEmitsDiag : Obligations.UnimplementedEmitsDiag :=
  fun _ _ => rfl

/-! ### The events of a cycle (R148) -/

/-- What a cycle that completes is made of: the effect of the fetched instruction, then the timer step. -/
theorem cycle_completes {r : RndArg} {s t : State} {op : Word} (hs : s.fault = none)
    (hop : s.fetch = .ok op) (h : cycle r s = .next t) (ht : t.fault = none) :
    ∃ u, Effect (s.advance r) (decode op) u ∧ u.fault = none ∧ t = u.timerStep := by
  obtain ⟨hne, -⟩ | ⟨-, -, rfl⟩ | ⟨-, op', u, hop', -, hu, rfl⟩ := cycle_cases h
  · exact absurd hs hne
  · cases ht
  · rw [hop] at hop'
    cases hop'
    rw [afterExecute_fault] at ht
    exact ⟨u, effect_of_exec hu, ht, by rw [afterExecute_eq_ite, if_pos ht]⟩

/-- A cycle of a running block that faults, in the fetch or in the instruction, emits its Fault alone. -/
theorem events_of_faulting_cycle {r : RndArg} {s t : State} {record : FaultRecord}
    (hs : s.fault = none) (h : cycle r s = .next t) (ht : t.fault = some record) :
    t.events = s.events ++ [.fault record] := by
  obtain ⟨hne, -⟩ | ⟨-, -, rfl⟩ | ⟨-, op, u, -, -, hu, rfl⟩ := cycle_cases h
  · exact absurd hs hne
  · cases ht
    rfl
  · rw [afterExecute_fault] at ht
    have hend : u.afterExecute = u := by rw [afterExecute_eq_ite, if_neg (by simp [ht])]
    obtain ⟨record', hrecord, hevents⟩ | ⟨hnone, -⟩ := events_of_effect (effect_of_exec hu) hs
    · rw [ht] at hrecord
      cases hrecord
      rw [hend, hevents, advance_events]
    · simp [ht] at hnone

/-- A cycle adds its events after those before it. -/
theorem cycle_appends_events {r : RndArg} {s t : State} (h : cycle r s = .next t) :
    ∃ es, t.events = s.events ++ es := by
  obtain ⟨-, rfl⟩ | ⟨-, -, rfl⟩ | ⟨hs, op, u, hop, -, hu, ht⟩ := cycle_cases h
  · exact ⟨[], (List.append_nil _).symm⟩
  · exact ⟨_, rfl⟩
  · cases hfault : t.fault with
    | some record => exact ⟨_, events_of_faulting_cycle hs h hfault⟩
    | none =>
      obtain ⟨u, hu, hnone, rfl⟩ := cycle_completes hs hop h hfault
      obtain ⟨es, -, hevents⟩ := executeEmits_of_effect hu hs hnone
      exact ⟨es ++ tickEvents u, by
        rw [timerStep_events_eq, hevents, advance_events, List.append_assoc]⟩

/-! ### The timers and the events of a whole step -/

/-- A word that decodes to an unimplemented opcode decodes to itself (R122, R145). -/
theorem word_of_decode_unimplemented {op op' : Word} (h : decode op = .unimplemented op') :
    op' = op := by
  have hkept : encode (decode op) = op := (decodeThenEncode op).2
  rwa [h] at hkept

/-- No instruction changes the sound observer. -/
theorem soundObs_of_effect {s t : State} {i : Instr} (h : Effect s i t) :
    t.soundObs = s.soundObs := by
  have hhost := hostState_of_effect h
  simp only [hostState, Prod.mk.injEq] at hhost
  obtain ⟨-, -, hobs, -⟩ := hhost
  exact hobs

/-- Settles O11: the instruction leaves the values of `dtBeforeTick` and `stBeforeTick` and emits no Sound,
and the timer step does the rest. -/
theorem cycleTicksBothTimers : Obligations.CycleTicksBothTimers := by
  intro s t op hs hop h ht
  obtain ⟨u, hu, hnone, rfl⟩ := cycle_completes (s := s.clearEvents) hs hop h ht
  obtain ⟨hdt, hst⟩ : u.dt = dtBeforeTick (decode op) s ∧ u.st = stBeforeTick (decode op) s :=
    (timers_of_effect hu hnone :)
  have hobs : u.soundObs = s.soundObs := (soundObs_of_effect hu :)
  obtain ⟨es, hes, hevents⟩ := executeEmits_of_effect hu hs hnone
  refine ⟨?_, ?_, ?_⟩
  · rw [timerStep_dt, countDown_toNat, hdt]
  · rw [timerStep_st, countDown_toNat, hst]
  · calc Event.sound ∈ u.timerStep.events
        ↔ Event.sound ∈ es ∨ Event.sound ∈ tickEvents u := by
          rw [timerStep_events_eq, hevents]; exact List.mem_append
      _ ↔ Event.sound ∈ tickEvents u := or_iff_right (sound_notMem_of_executeEmits hes)
      _ ↔ _ := by rw [sound_mem_tickEvents, hst, hobs]

/-- Settles O12: what the instruction emits comes first, what the timer step emits comes last. -/
theorem cycleEventOrder : Obligations.CycleEventOrder := by
  refine ⟨fun s t op hs hop h ht => ?_, fun s t record hs h ht => ?_⟩
  · obtain ⟨u, hu, hnone, rfl⟩ := cycle_completes (s := s.clearEvents) hs hop h ht
    obtain ⟨es, hes, hevents⟩ := executeEmits_of_effect hu hs hnone
    refine ⟨es, tickEvents u, ?_, ?_, tickEvents_cases u⟩
    · rw [timerStep_events_eq, hevents]
      rfl
    · rw [screen_congr (timerStep_fb u)]
      obtain hnil | hdraw | ⟨op', hop', hdiag⟩ := hes
      · exact .inl hnil
      · exact .inr (.inl hdraw)
      · obtain rfl := word_of_decode_unimplemented hop'
        exact .inr (.inr ⟨hop', hdiag⟩)
  · exact events_of_faulting_cycle (s := s.clearEvents) hs h ht

/-! ### Observers (R155, R156) -/

/-- Settles O54: both registrations are one field update of the state with its events cleared. -/
theorem registrationSetsTheObserver : Obligations.RegistrationSetsTheObserver :=
  fun _ _ => ⟨rfl, rfl⟩

theorem reachesObserver_iff (e : Event) : e.reachesObserver = true ↔ Observed e := by
  cases e <;> simp [Event.reachesObserver, Observed]

/-- An observer ran in a cycle exactly when one of the events that it appended is observed. -/
theorem observerRan_iff {s t : State} {es : List Event} (h : t.events = s.events ++ es) :
    observerRan s t = true ↔ ∃ e ∈ es, Observed e := by
  rw [observerRan, h, List.drop_left, List.any_eq_true]
  simp only [reachesObserver_iff]

/-- A cycle with observer calls is the cycle, and then the calls if an observer ran in it. -/
theorem observedCycle_of_cycle {r : RndArg} {s t : State} (calls : List ObserverCall)
    (h : cycle r s = .next t) :
    observedCycle r calls s = if observerRan s t then observerCalls calls t else .next t := by
  rw [observedCycle, h]

/-- SetKey does the same whatever events came before it. -/
theorem setKeyTransaction_keeps_events (s : State) (index : Int) (pressed : Bool) :
    s.setKeyTransaction index pressed =
      { s.clearEvents.setKeyTransaction index pressed with events := s.events } := by
  unfold State.setKeyTransaction
  split <;> rfl

/-- Settles O56: an observer ran exactly when one of the cycle's own events is observed, and each call is
answered by its case. -/
theorem observerMayOnlySetKeysAndLook : Obligations.ObserverMayOnlySetKeysAndLook := by
  refine ⟨fun r calls s t h => ?_, fun q rest s => ⟨rfl, rfl⟩, fun s => ⟨rfl, ?_, ?_⟩,
    fun r calls s => rfl⟩
  · obtain ⟨es, hes⟩ := cycle_appends_events h
    rw [observedCycle_of_cycle calls h]
    refine ⟨es, hes, fun hobs => if_pos ((observerRan_iff hes).2 hobs), fun hnone => if_neg ?_⟩
    rw [observerRan_iff hes]
    exact fun ⟨e, he, hobs⟩ => hnone e he hobs
  · exact fun index pressed => ⟨_, _, rfl, rfl, setKeyTransaction_keeps_events s index pressed⟩
  · simp [observerCall]

/-! ### RunFrame (R152, R153) -/

/-- Run f from the next state of an outcome; a fault or a refusal stands. -/
def andThen (o : StepResult) (f : State → StepResult) : StepResult :=
  match o with
  | .next t => f t
  | .fault x => .fault x
  | .refused x => .refused x

theorem andThen_next (o : StepResult) : andThen o .next = o := by
  cases o <;> rfl

theorem andThen_assoc (o : StepResult) (f g : State → StepResult) :
    andThen (andThen o f) g = andThen o (fun t => andThen (f t) g) := by
  cases o <;> rfl

/-- The cycles of a RunFrame: the first one, and then the others with the bytes and the calls left. -/
theorem runCycles_succ (k : Nat) (rnds : List Byte) (calls : List (List ObserverCall)) (s : State) :
    runCycles (k + 1) rnds calls s =
      andThen (observedCycle (nextRnd rnds s) (calls.headD []) s)
        (runCycles k rnds.tail calls.tail) := rfl

theorem runCycles_one (rnds : List Byte) (calls : List (List ObserverCall)) (s : State) :
    runCycles 1 rnds calls s = observedCycle (nextRnd rnds s) (calls.headD []) s :=
  andThen_next _

theorem runCycles_add (m n : Nat) (rnds : List Byte) (calls : List (List ObserverCall)) (s : State) :
    runCycles (m + n) rnds calls s =
      andThen (runCycles m rnds calls s) (runCycles n (rnds.drop m) (calls.drop m)) := by
  induction m generalizing rnds calls s with
  | zero => rw [Nat.zero_add]; rfl
  | succ m ih =>
    rw [Nat.succ_add, runCycles_succ, runCycles_succ, andThen_assoc,
      funext (ih rnds.tail calls.tail), List.drop_tail, List.drop_tail]

/-- Without observer calls the first cycle of a RunFrame is one Cycle. -/
theorem runCycles_succ_nil (k : Nat) (rnds : List Byte) (s : State) :
    runCycles (k + 1) rnds [] s =
      andThen (cycle (nextRnd rnds s) s) (runCycles k rnds.tail []) := by
  rw [runCycles_succ, List.headD_nil, observedCycle_nil, List.tail_nil]

theorem runCycles_one_nil (rnds : List Byte) (s : State) :
    runCycles 1 rnds [] s = cycle (nextRnd rnds s) s :=
  (runCycles_one rnds [] s).trans (observedCycle_nil _ s)

theorem runCycles_nil_next (k : Nat) (rnds : List Byte) (s : State) :
    ∃ t, runCycles k rnds [] s = .next t := by
  induction k generalizing rnds s with
  | zero => exact ⟨s, rfl⟩
  | succ k ih =>
    obtain ⟨t, ht⟩ := cycle_next (nextRnd rnds s) s
    rw [runCycles_succ_nil, ht]
    exact ih rnds.tail t

/-- RunFrame with count at most 0 performs no cycle. -/
theorem transact_runFrame_of_nonpos {count : Int} (rnds : List Byte)
    (calls : List (List ObserverCall)) (s : State) (h : count ≤ 0) :
    transact (.runFrame count rnds calls) s = .next (s.clearEvents, .none) := by
  rw [transact, runFrame, Int.toNat_of_nonpos h, runCycles, withoutReply]

/-- Settles O55: RunFrame is `runCycles` from an empty event list, which splits at any cycle. -/
theorem runFrameIsItsCycles : Obligations.RunFrameIsItsCycles :=
  ⟨fun m n rnds calls s => runCycles_add m n rnds calls s.clearEvents,
    fun _ _ _ _ s => ⟨runCycles_one _ _ s, runCycles_one_nil _ s, runCycles_one_nil _ s⟩,
    fun _ _ _ h => cycle_appends_events h,
    fun _ rnds calls s h => transact_runFrame_of_nonpos rnds calls s h,
    fun count rnds s => runCycles_nil_next count.toNat rnds s.clearEvents⟩

theorem cyclesWith_cons (b : Byte) (rest : List Byte) (s : State) :
    cyclesWith (b :: rest) s = andThen (cycle (.given b) s) (cyclesWith rest) := rfl

/-- With one byte for each cycle, the cycles of a RunFrame are one Cycle for each byte. -/
theorem runCycles_eq_cyclesWith (rnds : List Byte) (s : State) :
    runCycles rnds.length rnds [] s = cyclesWith rnds s := by
  induction rnds generalizing s with
  | nil => rfl
  | cons b rest ih =>
    rw [List.length_cons, runCycles_succ_nil, cyclesWith_cons, List.tail_cons, funext ih]
    rfl

/-- Settles O57: byte by byte, a RunFrame without observer calls is `cyclesWith`. -/
theorem runFramePerformsItsCycles : Obligations.RunFramePerformsItsCycles := by
  refine ⟨fun rnds s => ?_, fun count rnds s h => transact_runFrame_of_nonpos rnds [] s h,
    fun r s t h => cycle_appends_events h⟩
  obtain ⟨t, ht⟩ := runCycles_nil_next rnds.length rnds s.clearEvents
  refine ⟨t, (runCycles_eq_cyclesWith rnds s.clearEvents).symm.trans ht, ?_⟩
  rw [transact, runFrame, Int.toNat_natCast, ht, withoutReply]

end Sys2Proof.Proofs
end

section
/-! The statements of 41_family0_2_flow.md: CLS, RET, SYS, the two jumps and CALL, each with its encoding,
its effect and its frame. -/

namespace Sys2Proof.Proofs
open Sys2Proof.Machine Sys2Proof.Laws Sys2Proof.Claims

/-- Raising a fault is the state that the statements describe (R321, R322). -/
theorem raise_eq_faulted (s : State) (i : Instr) (kind : FaultKind) (info : Nat) :
    s.raise i kind info = faulted s i kind info :=
  rfl

/-! ### The call stack: CALL and RET (R171, R174, R175) -/

theorem exec_callAddr_of_lt (nnn : Addr12) {s : State} (h : s.sp.val < 16) :
    exec (.callAddr nnn) s = .next
      { s with
        stack := s.stack.set s.sp.val s.pc
        sp := ⟨s.sp.val + 1, by omega⟩
        pc := addrWord nnn } := by
  obtain ⟨hfull, -⟩ | ⟨_, hpush⟩ := push_eq s s.pc
  · omega
  · rw [exec, execCallAddr, hpush]; rfl

theorem exec_callAddr_of_full (nnn : Addr12) {s : State} (h : s.sp.val = 16) :
    exec (.callAddr nnn) s = .next (faulted s (.callAddr nnn) .stackOverflow 16) := by
  obtain ⟨-, hpush⟩ | ⟨hroom, -⟩ := push_eq s s.pc
  · rw [exec, execCallAddr, hpush, h, ← raise_eq_faulted]
  · omega

theorem exec_ret_of_ne_zero (z : Nibble) {s : State} (h : s.sp.val ≠ 0) :
    exec (.ret z) s =
      .next { s with sp := ⟨s.sp.val - 1, by omega⟩, pc := s.stack[s.sp.val - 1] } := by
  obtain ⟨hempty, -⟩ | ⟨_, hpop⟩ := pop_eq s
  · exact absurd hempty h
  · rw [exec, execRet, hpop]; rfl

theorem exec_ret_of_empty (z : Nibble) {s : State} (h : s.sp.val = 0) :
    exec (.ret z) s = .next (faulted s (.ret z) .stackUnderflow 0) := by
  obtain ⟨-, hpop⟩ | ⟨hused, -⟩ := pop_eq s
  · rw [exec, execRet, hpop, h, ← raise_eq_faulted]
  · exact absurd h hused

/-- Settles O28: the entry at SP is the only one the push sets, and a full stack is SP = 16. -/
theorem callPushesTheReturnAddress : Obligations.CallPushesTheReturnAddress := by
  refine ⟨fun op h => decode_family2 ((mask_family op 0x2).1 h), fun nnn s =>
    ⟨fun hroom => ⟨_, exec_callAddr_of_lt nnn hroom, rfl, addrWord_toNat nnn, fun k => ?_, rfl⟩,
      exec_callAddr_of_full nnn⟩⟩
  simp only [Vector.getElem_set, eq_comm]

/-- Settles O29: SP is not 0 after the CALL, and the entry below it is the one the CALL pushed. -/
theorem retUndoesCall : Obligations.RetUndoesCall := by
  intro nnn z s t u hroom hcall hstack hsp
  rw [exec_callAddr_of_lt nnn hroom] at hcall
  cases hcall
  have hused : u.sp.val ≠ 0 := by simp [hsp]
  refine ⟨_, exec_ret_of_ne_zero z hused, ?_, ?_, rfl⟩
  · simp [hstack, hsp]
  · simp [hsp]

/-- Settles O24: both answers of the pop. -/
theorem retPopsTheReturnAddress : Obligations.RetPopsTheReturnAddress := by
  refine ⟨fun op h => ?_, fun z s => ⟨exec_ret_of_ne_zero z, exec_ret_of_empty z⟩⟩
  obtain ⟨hf, hkk⟩ := (mask_familyKK op 0x0 0xEE).1 h
  simp [decode_family0 hf, decodeFamily0, hkk]

/-! ### The screen: CLS (R170) -/

/-- The end of CLS and DRW, in the form in which the statements say it. -/
theorem announceDraw_eq_ite_none (s : State) :
    s.announceDraw = { s with
      drawFlag := true
      events := if s.drawObs = none then s.events else s.events ++ [.draw s.screen 64 32] } := by
  rw [announceDraw_eq]
  cases s.drawObs <;> rfl

/-- Settles O23: the snapshot is taken of the framebuffer after it is cleared. -/
theorem clsClearsTheScreen : Obligations.ClsClearsTheScreen := by
  refine ⟨fun op h => ?_, fun z s => ⟨s.clearScreen.announceDraw, rfl, fun r c => ?_, ?_⟩⟩
  · obtain ⟨hf, hkk⟩ := (mask_familyKK op 0x0 0xE0).1 h
    simp [decode_family0 hf, decodeFamily0, hkk]
  · rw [announceDraw_eq]
    exact pixel_clearScreen s r c
  · rw [announceDraw_eq_ite_none, screen_clearScreen]
    rfl

/-! ### SYS and the jumps (R172, R173, R241) -/

/-- Settles O25: outside the two rows the low byte is neither selector, so the decoder falls through to
SYS. -/
theorem sysIsIgnored : Obligations.SysIsIgnored := by
  refine ⟨fun op h hcls hret => ?_, fun _ _ => rfl⟩
  have hf : opFamily op = 0x0 := (mask_family op 0x0).1 h
  have hE0 : opKK op ≠ 0xE0 := fun hkk => hcls ((mask_familyKK op 0x0 0xE0).2 ⟨hf, hkk⟩)
  have hEE : opKK op ≠ 0xEE := fun hkk => hret ((mask_familyKK op 0x0 0xEE).2 ⟨hf, hkk⟩)
  rw [decode_family0 hf, decodeFamily0, if_neg hE0, if_neg hEE]

/-- Settles O27: the zero-extended nnn, and its sum with V0, which does not wrap. -/
theorem jumpsSetPc : Obligations.JumpsSetPc :=
  ⟨fun op h => decode_family1 ((mask_family op 0x1).1 h),
    fun op h => decode_familyB ((mask_family op 0xB).1 h),
    fun nnn s => ⟨⟨addrWord nnn, addrWord_toNat nnn, rfl⟩,
      addrWord nnn + byteWord (s.reg 0), jpV0_toNat nnn (s.reg 0), rfl⟩⟩

end Sys2Proof.Proofs
end

section
/-! The statements of 42_skips.md: the byte skips and the register skips, each with its encoding, both
outcomes and its frame. -/

namespace Sys2Proof.Proofs
open Sys2Proof.Machine Sys2Proof.Laws Sys2Proof.Claims

/-- An instruction that answers `skipIf` of a test skips when what the test decides holds (R190). -/
theorem skipsWhen_of_exec {i : Instr} {s : State} {b : Bool} {cond : Prop}
    (hexec : exec i s = .next (s.skipIf b)) (htest : b = true ↔ cond) : SkipsWhen i s cond := by
  rw [SkipsWhen, ← htest, hexec, skipIf_eq]
  exact ⟨fun hb => by rw [if_pos hb], fun hb => by rw [if_neg hb]⟩

/-- Settles O30: the test of each byte skip decides its condition (R191, R192). -/
theorem byteSkipsCompare : Obligations.ByteSkipsCompare :=
  ⟨fun op h => decode_family3 ((mask_family op 0x3).1 h),
    fun op h => decode_family4 ((mask_family op 0x4).1 h),
    fun _ _ _ => ⟨skipsWhen_of_exec rfl beq_iff_eq, skipsWhen_of_exec rfl bne_iff_ne⟩⟩

/-- Settles O31: the test of each register skip decides its condition and does not read the ignored nibble
(R193, R194, R119). -/
theorem registerSkipsCompare : Obligations.RegisterSkipsCompare :=
  ⟨fun op h => decode_family5 ((mask_family op 0x5).1 h),
    fun op h => decode_family9 ((mask_family op 0x9).1 h),
    fun _ _ _ _ => ⟨skipsWhen_of_exec rfl beq_iff_eq, skipsWhen_of_exec rfl bne_iff_ne⟩⟩

end Sys2Proof.Proofs
end

section
/-! The statements of 43_alu.md: register loads, wrapping additions and subtractions, logical operations and
shifts, each with its encoding, its effect and its frame. -/

namespace Sys2Proof.Proofs
open Sys2Proof.Machine Sys2Proof.Laws Sys2Proof.Claims

/-! ### The rows of family 0x8 (R116) -/

/-- A row of family 0x8 selects the words that its instruction encodes to, and the decoder inverts the
encoder. -/
theorem decodes_family8 (build : Reg → Reg → Instr) (n : Nibble)
    (hrow : ∀ x y, IsMeaningOf (build x y) (formatXYN 0x8 (regField x) (regField y) n)) :
    Decodes 0xF00F (formatXYN 0x8 0 0 n) (fun op => build (opX op) (opY op)) := by
  intro op h
  obtain ⟨hf, hn⟩ := (mask_familyN op 0x8 n).1 h
  obtain ⟨hwf, hencode⟩ := hrow (opX op) (opY op)
  have hdecode := encodeThenDecode _ hwf
  rwa [hencode, formatXYN_of_fields hf hn] at hdecode

/-! ### What a register write changes and leaves unchanged (R210, R211) -/

theorem writesReg_of_exec {i : Instr} {s : State} {x : Reg} {w : Byte}
    (hexec : exec i s = .next (s.setReg x w)) : WritesReg i s x w :=
  ⟨_, hexec, reg_setReg_same s x w, fun k hk => by rw [reg_setReg, if_neg hk], rfl⟩

/-- The flag is written last, so VF holds it also when x is 0xF. -/
theorem writesRegAndFlag_of_exec {i : Instr} {s : State} {x : Reg} {r f flag : Byte}
    (hexec : exec i s = .next (s.setRegFlag x r flag)) (hflag : flag = f) :
    WritesRegAndFlag i s x r f := by
  subst hflag
  refine ⟨_, hexec, ?_, fun hx => ?_, fun k hkx hkf => ?_, rfl⟩
  · rw [reg_setRegFlag, if_pos rfl]
  · rw [reg_setRegFlag, if_neg hx, if_pos rfl]
  · rw [reg_setRegFlag, if_neg hkf, if_neg hkx]

/-! ### Results and flags as numbers (R218 to R222) -/

theorem byte_sub_toNat (a b : Byte) : (a - b).toNat = (a.toNat + 256 - b.toNat) % 256 := by
  bv_omega

theorem carryFlag_eq_ite (a b : Byte) :
    carryFlag a b = if a.toNat + b.toNat > 255 then 1 else 0 := by
  simp [carryFlag, flagByte]

theorem noBorrowFlag_eq_ite (a b : Byte) :
    noBorrowFlag a b = if a.toNat ≥ b.toNat then 1 else 0 := by
  simp [noBorrowFlag, flagByte]

/-- Bit k of a byte as the value of the flag. -/
theorem flagByte_getLsbD_toNat (a : Byte) (k : Nat) :
    (flagByte (a.getLsbD k)).toNat = a.toNat / 2 ^ k % 2 := by
  rw [← Nat.toNat_testBit, BitVec.testBit_toNat]
  cases a.getLsbD k <;> rfl

theorem lowBitFlag_toNat (a : Byte) : (lowBitFlag a).toNat = a.toNat % 2 := by
  rw [lowBitFlag, flagByte_getLsbD_toNat, pow_zero, Nat.div_one]

theorem highBitFlag_toNat (a : Byte) : (highBitFlag a).toNat = a.toNat / 128 := by
  rw [highBitFlag, flagByte_getLsbD_toNat]
  omega

theorem byte_shiftRight_one_toNat (a : Byte) : (a >>> 1).toNat = a.toNat / 2 := by
  rw [BitVec.toNat_ushiftRight, Nat.shiftRight_one]

theorem byte_shiftLeft_one_toNat (a : Byte) : (a <<< 1).toNat = a.toNat * 2 % 256 := by
  rw [BitVec.toNat_shiftLeft, Nat.shiftLeft_eq, pow_one]

/-! ### The statements -/

/-- Settles O34: each bit of the result is the operation of the two bits, and VF is no flag here (R215 to
R217). -/
theorem logicalOpsWorkBitwise : Obligations.LogicalOpsWorkBitwise :=
  ⟨decodes_family8 .orReg 0x1 fun _ _ => ⟨rfl, rfl⟩,
    decodes_family8 .andReg 0x2 fun _ _ => ⟨rfl, rfl⟩,
    decodes_family8 .xorReg 0x3 fun _ _ => ⟨rfl, rfl⟩,
    fun x y s =>
      ⟨⟨s.reg x ||| s.reg y, fun _ _ => BitVec.getLsbD_or, writesReg_of_exec rfl⟩,
        ⟨s.reg x &&& s.reg y, fun _ _ => BitVec.getLsbD_and, writesReg_of_exec rfl⟩,
        ⟨s.reg x ^^^ s.reg y, fun _ _ => BitVec.getLsbD_xor, writesReg_of_exec rfl⟩⟩⟩

/-- Settles O35: the sum of the bytes wraps, and the flag compares the sum that does not (R218). -/
theorem addRegSetsCarry : Obligations.AddRegSetsCarry :=
  ⟨decodes_family8 .addReg 0x4 fun _ _ => ⟨rfl, rfl⟩,
    fun x y s => ⟨s.reg x + s.reg y, BitVec.toNat_add _ _,
      writesRegAndFlag_of_exec rfl (carryFlag_eq_ite _ _)⟩⟩

/-- Settles O36: the two subtractions differ in which register is the minuend (R219, R221). -/
theorem subtractionsSetNoBorrow : Obligations.SubtractionsSetNoBorrow :=
  ⟨decodes_family8 .subReg 0x5 fun _ _ => ⟨rfl, rfl⟩,
    decodes_family8 .subn 0x7 fun _ _ => ⟨rfl, rfl⟩,
    fun x y s =>
      ⟨⟨s.reg x - s.reg y, byte_sub_toNat _ _,
          writesRegAndFlag_of_exec rfl (noBorrowFlag_eq_ite _ _)⟩,
        ⟨s.reg y - s.reg x, byte_sub_toNat _ _,
          writesRegAndFlag_of_exec rfl (noBorrowFlag_eq_ite _ _)⟩⟩⟩

/-- Settles O37: the flag is the bit of Vx that the shift drops, read before Vx is written (R220, R222). -/
theorem shiftsMoveVx : Obligations.ShiftsMoveVx :=
  ⟨decodes_family8 .shr 0x6 fun _ _ => ⟨rfl, rfl⟩,
    decodes_family8 .shl 0xE fun _ _ => ⟨rfl, rfl⟩, fun x _ s =>
    ⟨⟨s.reg x >>> 1, lowBitFlag (s.reg x), byte_shiftRight_one_toNat _, lowBitFlag_toNat _,
        writesRegAndFlag_of_exec rfl rfl⟩,
      ⟨s.reg x <<< 1, highBitFlag (s.reg x), byte_shiftLeft_one_toNat _, highBitFlag_toNat _,
        writesRegAndFlag_of_exec rfl rfl⟩⟩⟩

/-- Settles O32: both loads are one register write (R212, R214). -/
theorem registerLoadsCopy : Obligations.RegisterLoadsCopy :=
  ⟨fun op h => decode_family6 ((mask_family op 0x6).1 h),
    decodes_family8 .ldReg 0x0 fun _ _ => ⟨rfl, rfl⟩,
    fun _ _ _ _ => ⟨writesReg_of_exec rfl, writesReg_of_exec rfl⟩⟩

/-- Settles O33: the sum of the bytes wraps, and no flag is written (R213). -/
theorem addByteWraps : Obligations.AddByteWraps :=
  ⟨fun op h => decode_family7 ((mask_family op 0x7).1 h),
    fun x kk s => ⟨s.reg x + kk, BitVec.toNat_add _ _, writesReg_of_exec rfl⟩⟩

end Sys2Proof.Proofs
end

section
/-! The statements of 44_index_jump_random.md that are not a jump: the index load and the random byte, each
with its encoding, its effect and its frame. -/

namespace Sys2Proof.Proofs
open Sys2Proof.Machine Sys2Proof.Laws Sys2Proof.Claims

/-- Settles O38: I is the zero-extended nnn (R240). -/
theorem ldILoadsIndex : Obligations.LdILoadsIndex :=
  ⟨fun op h => decode_familyA ((mask_family op 0xA).1 h),
    fun nnn _ => ⟨addrWord nnn, addrWord_toNat nnn, rfl⟩⟩

theorem randomByte_of_given {s : State} {b : Byte} (h : s.rnd = .given b) : s.randomByte = b :=
  congrArg RndArg.byte h

theorem randomByte_of_free {s : State} {n : Nat} (h : s.rnd = .free n) :
    s.randomByte = Config.randomByte n :=
  congrArg RndArg.byte h

/-- RND is one register write, for either form of the random byte. -/
theorem writesReg_rnd (x : Reg) (kk : Byte) (s : State) :
    WritesReg (.rnd x kk) s x (s.randomByte &&& kk) :=
  writesReg_of_exec rfl

/-- Settles O39: the masked byte is the host's or the free one, by the form of the cycle's argument (R246). -/
theorem rndMasksTheRandomByte : Obligations.RndMasksTheRandomByte :=
  ⟨fun op h => decode_familyC ((mask_family op 0xC).1 h),
    fun x kk s =>
      ⟨fun _ hb => randomByte_of_given hb ▸ writesReg_rnd x kk s,
        fun _ hn => randomByte_of_free hn ▸ writesReg_rnd x kk s⟩⟩

end Sys2Proof.Proofs
end

section
/-! The statements of 45_draw.md: DRW with its encoding, its effect, its frame and its fault, and the second
draw that undoes the first. -/

namespace Sys2Proof.Proofs
open Sys2Proof.Machine Sys2Proof.Laws Sys2Proof.Claims

/-! ### The address check (R81, R82, R324) -/

theorem firstOutside_of_inside {base n : Nat} (h : Inside base n) : firstOutside base n = none :=
  firstOutside_none.2 h

theorem firstOutside_of_not_inside {base n : Nat} (h : ¬Inside base n) :
    firstOutside base n = some (lowestOutside base) := by
  unfold Inside at h
  rw [firstOutside_some, lowestOutside]
  split <;> omega

/-! ### The sprite -/

/-- The statements' rows and columns as numbers are the model's row and column. -/
theorem spriteBit_iff_spriteCovers (s : State) (px py : Byte) (base n : Nat) (r : Fin 32)
    (c : Fin 64) : SpriteBit s px py base n r c ↔ spriteCovers s px py base n r c := by
  simp only [SpriteBit, spriteCovers, Fin.ext_iff, spriteRow, spriteColumn, Fin.val_ofNat,
    exists_and_left]

/-- A sprite is its bytes in memory. -/
theorem spriteBit_congr {s t : State} (h : ∀ a, t.readByte a = s.readByte a) :
    SpriteBit t = SpriteBit s := by
  unfold SpriteBit
  simp only [h]

/-! ### What DRW draws (R260) -/

/-- The state that DRW announces, for a sprite inside memory: VF is cleared after the coordinates are read,
and the rows are drawn. -/
def drawn (x y : Reg) (n : Nibble) (s : State) : State :=
  (s.setReg vf 0).drawRows (s.reg x) (s.reg y) s.i.toNat n.toNat

theorem exec_drw_of_inside (x y : Reg) {n : Nibble} {s : State} (h : Inside s.i.toNat n.toNat) :
    exec (.drw x y n) s = .next (drawn x y n s).announceDraw := by
  rw [exec, execDrw, firstOutside_of_inside h, drawn]

theorem exec_drw_of_not_inside (x y : Reg) {n : Nibble} {s : State}
    (h : ¬Inside s.i.toNat n.toNat) :
    exec (.drw x y n) s =
      .next (faulted s (.drw x y n) .memBounds (lowestOutside s.i.toNat)) := by
  rw [exec, execDrw, firstOutside_of_not_inside h, ← raise_eq_faulted]

theorem setReg_vf_onlyDraws (s : State) (w : Byte) : OnlyDraws s (s.setReg vf w) :=
  ⟨rfl, fun k hk => by rw [reg_setReg, if_neg hk]⟩

theorem drawn_onlyDraws (x y : Reg) (n : Nibble) (s : State) : OnlyDraws s (drawn x y n s) :=
  (setReg_vf_onlyDraws s 0).trans (drawRows_onlyDraws _ _ _ _ _)

/-- A sprite has at most 15 rows, so no two of its bits share a pixel and each toggles its own. -/
theorem pixel_drawn_ne_iff (x y : Reg) (n : Nibble) (s : State) (r : Fin 32) (c : Fin 64) :
    (drawn x y n s).pixel r c ≠ s.pixel r c ↔
      SpriteBit s (s.reg x) (s.reg y) s.i.toNat n.toNat r c := by
  have htoggled : (drawn x y n s).pixel r c =
      (s.pixel r c ^^ decide (spriteCovers s (s.reg x) (s.reg y) s.i.toNat n.toNat r c)) :=
    pixel_drawRows (s.setReg vf 0) _ _ _ _ (by omega) r c
  rw [htoggled, spriteBit_iff_spriteCovers]
  by_cases hcovered : spriteCovers s (s.reg x) (s.reg y) s.i.toNat n.toNat r c <;> simp [hcovered]

/-- VF, cleared before the rows are drawn, is the collision flag. -/
theorem vf_drawn (x y : Reg) (n : Nibble) (s : State) :
    (drawn x y n s).reg vf =
      if ∃ r c, spriteCovers s (s.reg x) (s.reg y) s.i.toNat n.toNat r c ∧ s.pixel r c = true
      then 1 else 0 := by
  have hflag := vf_drawRows (s.setReg vf 0) (s.reg x) (s.reg y) s.i.toNat n.toNat (by omega)
  rwa [reg_setReg_same] at hflag

/-- The end of DRW adds the announcement to what drawing changed. -/
theorem announceDraw_of_onlyDraws {s u : State} (h : OnlyDraws s u) :
    u.announceDraw = { s with
      fb := u.fb
      v := u.v
      drawFlag := true
      events := if s.drawObs = none then s.events else s.events ++ [.draw u.screen 64 32] } := by
  obtain ⟨hframe, -⟩ := h
  rw [announceDraw_eq_ite_none, hframe]

@[simp] theorem pixel_announceDraw (s : State) (r : Fin 32) (c : Fin 64) :
    s.announceDraw.pixel r c = s.pixel r c := by
  simp [State.pixel]

@[simp] theorem reg_announceDraw (s : State) (k : Reg) : s.announceDraw.reg k = s.reg k := by
  simp [State.reg]

/-! ### The statements -/

/-- Settles O40: the toggled pixels and the flag are those of `drawn`, and the announcement leaves both as
they are. -/
theorem drwTogglesSpritePixels : Obligations.DrwTogglesSpritePixels := by
  refine ⟨fun op h => decode_familyD ((mask_family op 0xD).1 h), fun x y n s =>
    ⟨fun hin => ⟨_, exec_drw_of_inside x y hin, ?_⟩, exec_drw_of_not_inside x y⟩⟩
  have hdraws : OnlyDraws s (drawn x y n s) := drawn_onlyDraws x y n s
  simp only [pixel_announceDraw, reg_announceDraw]
  refine ⟨pixel_drawn_ne_iff x y n s, ?_, ?_, hdraws.2, ?_⟩
  · simp only [vf_drawn, spriteBit_iff_spriteCovers]
    split
    next hcollision => exact iff_of_true rfl hcollision
    next hclear => exact iff_of_false (by decide) hclear
  · rw [vf_drawn]
    split
    · exact .inr rfl
    · exact .inl rfl
  · rw [announceDraw_fb, announceDraw_v, screen_congr (announceDraw_fb _)]
    exact announceDraw_of_onlyDraws hdraws

/-- A pixel that both draws toggle, or neither, is as it was before them. -/
theorem eq_of_toggled_twice {before between after : Bool}
    (h : after ≠ between ↔ between ≠ before) : after = before := by
  revert before between after
  decide

/-- Settles O41: both draws toggle the same pixels, and a covered pixel is set before the second draw iff it
was clear before the first. -/
theorem drawingTwiceRestoresTheScreen : Obligations.DrawingTwiceRestoresTheScreen := by
  intro x y n s t t' u hin hfirst hfb hi hx hy hbytes hsecond
  have hpixel : ∀ r c, t'.pixel r c = t.pixel r c := fun r c => by rw [State.pixel, hfb]; rfl
  obtain ⟨_, hexec, htoggled, -⟩ := (drwTogglesSpritePixels.2 x y n s).1 hin
  cases hexec.symm.trans hfirst
  obtain ⟨_, hexec', htoggled', hflag', -⟩ := (drwTogglesSpritePixels.2 x y n t').1 (hi ▸ hin)
  cases hexec'.symm.trans hsecond
  rw [spriteBit_congr hbytes, hx, hy, hi] at htoggled' hflag'
  refine ⟨fb_ext fun r c => ?_, hflag'.trans ?_⟩
  · have hsame : u.pixel r c ≠ t.pixel r c ↔ t.pixel r c ≠ s.pixel r c := by
      rw [← hpixel, htoggled', hpixel, htoggled]
    exact eq_of_toggled_twice hsame
  · refine exists_congr fun r => exists_congr fun c => and_congr_right fun hbit => ?_
    have hchanged : t.pixel r c ≠ s.pixel r c := (htoggled r c).2 hbit
    rw [hpixel, Bool.eq_not_of_ne hchanged, Bool.not_eq_true']

end Sys2Proof.Proofs
end

section
/-! The statements of 46_keys.md: SKP and SKNP, each with its encoding, both outcomes and its fault. -/

namespace Sys2Proof.Proofs
open Sys2Proof.Machine Sys2Proof.Laws Sys2Proof.Claims

/-- A row selected by family and kk selects the words that its instruction encodes to, and the decoder
inverts the encoder (R117, R118). -/
theorem decodes_familyKK (build : Reg → Instr) (f : Nibble) (kk : Byte)
    (hrow : ∀ x, IsMeaningOf (build x) (formatXKK f (regField x) kk)) :
    Decodes 0xF0FF (formatXKK f 0 kk) (fun op => build (opX op)) := by
  intro op h
  obtain ⟨hf, hkk⟩ := (mask_familyKK op f kk).1 h
  obtain ⟨hwf, hencode⟩ := hrow (opX op)
  have hdecode := encodeThenDecode _ hwf
  rwa [hencode, formatXKK_of_fields hf hkk] at hdecode

/-! ### A number that names a key (R280, R281) -/

theorem keyNumbered_of_lt {s : State} {k : Byte} (h : k.toNat < 16) :
    s.keyNumbered k = some s.key[k.toNat] := by
  obtain ⟨habove, -⟩ | ⟨_, hkey⟩ := keyNumbered_eq s k
  · omega
  · exact hkey

theorem exec_skp_of_lt (x : Reg) {s : State} (h : (s.reg x).toNat < 16) :
    exec (.skp x) s = .next (s.skipIf s.key[(s.reg x).toNat]) := by
  rw [exec, execSkp, keyNumbered_of_lt h]

theorem exec_sknp_of_lt (x : Reg) {s : State} (h : (s.reg x).toNat < 16) :
    exec (.sknp x) s = .next (s.skipIf (!s.key[(s.reg x).toNat])) := by
  rw [exec, execSknp, keyNumbered_of_lt h]

/-! ### A number that names no key (R282) -/

theorem keyNumbered_of_gt {s : State} {k : Byte} (h : 15 < k.toNat) : s.keyNumbered k = none := by
  obtain ⟨-, hnone⟩ | ⟨hbelow, -⟩ := keyNumbered_eq s k
  · exact hnone
  · omega

theorem exec_skp_of_gt (x : Reg) {s : State} (h : 15 < (s.reg x).toNat) :
    exec (.skp x) s = .next (faulted s (.skp x) .keyIndex (s.reg x).toNat) := by
  rw [exec, execSkp, keyNumbered_of_gt h, ← raise_eq_faulted]

theorem exec_sknp_of_gt (x : Reg) {s : State} (h : 15 < (s.reg x).toNat) :
    exec (.sknp x) s = .next (faulted s (.sknp x) .keyIndex (s.reg x).toNat) := by
  rw [exec, execSknp, keyNumbered_of_gt h, ← raise_eq_faulted]

/-- Settles O42: the two skips test the same key with opposite polarity, and both fault where there is no
key to test. -/
theorem keySkipsTestTheKey : Obligations.KeySkipsTestTheKey :=
  ⟨decodes_familyKK .skp 0xE 0x9E fun _ => ⟨rfl, rfl⟩,
    decodes_familyKK .sknp 0xE 0xA1 fun _ => ⟨rfl, rfl⟩,
    fun x _ =>
      ⟨fun h =>
        ⟨skipsWhen_of_exec (exec_skp_of_lt x h) Iff.rfl,
          skipsWhen_of_exec (exec_sknp_of_lt x h) (.of_eq (Bool.not_eq_true' _))⟩,
        fun h => ⟨exec_skp_of_gt x h, exec_sknp_of_gt x h⟩⟩⟩

end Sys2Proof.Proofs
end

section
/-! The statements of 47_family_f.md: the timer moves, the key wait, the index updates, LD B and the block
transfers, each with its encoding, its effect, its frame and its fault. -/

namespace Sys2Proof.Proofs
open Sys2Proof.Machine Sys2Proof.Laws Sys2Proof.Claims

/-! ### The key wait (R291) -/

theorem exec_ldVxK_of_lowest (x : Reg) {s : State} {k : Fin 16} (hdown : s.key[k.val] = true)
    (hlower : ∀ j : Fin 16, j < k → s.key[j.val] = false) :
    exec (.ldVxK x) s = .next (s.setReg x (BitVec.ofNat 8 k.val)) := by
  rw [exec, execLdVxK, lowestKeyDown_some.2 ⟨hdown, hlower⟩]

theorem exec_ldVxK_of_up (x : Reg) {s : State} (h : ∀ k : Fin 16, s.key[k.val] = false) :
    exec (.ldVxK x) s = .next (s.setPc (s.pc - 2)) := by
  rw [exec, execLdVxK, lowestKeyDown_none.2 h]

/-- Settles O44: the search over the keypad finds the lowest key that is down, or none. -/
theorem keyWaitTakesTheLowestKey : Obligations.KeyWaitTakesTheLowestKey :=
  ⟨decodes_familyKK .ldVxK 0xF 0x0A fun _ => ⟨rfl, rfl⟩,
    fun x _ => ⟨fun _ hdown hlower => writesReg_of_exec (exec_ldVxK_of_lowest x hdown hlower),
      exec_ldVxK_of_up x⟩⟩

/-- A step whose instruction completes ends with the timer step. -/
theorem step_of_exec {s t : State} {op : Word} (hs : s.fault = none) (hop : s.fetch = .ok op)
    (h : exec (decode op) (started s) = .next t) (ht : t.fault = none) :
    step s = .next t.timerStep := by
  rw [step, cycle_of_fetch (s := s.clearEvents) _ hs hop, ← started, h]
  dsimp only
  rw [afterExecute_eq_ite, if_pos ht]

/-- The rewind undoes the advance (R142, R291). -/
theorem word_add_two_sub_two (w : Word) : w + 2 - 2 = w := by
  bv_omega

/-- Settles O45: the rewind takes back the advance of the same cycle, and the timer step follows. -/
theorem keyWaitStaysAtItsAddress : Obligations.KeyWaitStaysAtItsAddress := by
  intro s x op hs hop hx hup
  have hexec : exec (decode op) (started s) = .next ((started s).setPc (s.pc + 2 - 2)) := by
    rw [hx]
    exact exec_ldVxK_of_up x hup
  refine ⟨_, step_of_exec hs hop hexec hs, ?_, timerStep_v _, ?_, ?_⟩
  · rw [timerStep_pc, setPc_pc, word_add_two_sub_two]
  · rw [timerStep_dt, countDown_toNat]; rfl
  · rw [timerStep_st, countDown_toNat]; rfl

/-! ### Timers and index (R290, R292 to R295) -/

/-- Settles O43: each move is one register or timer write; the timer step is not the instruction's. -/
theorem timerLoadsMoveBytes : Obligations.TimerLoadsMoveBytes :=
  ⟨decodes_familyKK .ldVxDT 0xF 0x07 fun _ => ⟨rfl, rfl⟩,
    decodes_familyKK .ldDTVx 0xF 0x15 fun _ => ⟨rfl, rfl⟩,
    decodes_familyKK .ldSTVx 0xF 0x18 fun _ => ⟨rfl, rfl⟩,
    fun _ _ => ⟨writesReg_of_exec rfl, rfl, rfl⟩⟩

theorem byteWord_toNat (b : Byte) : (byteWord b).toNat = b.toNat :=
  BitVec.toNat_setWidth_of_le (by decide)

/-- The font address of the highest byte, 0x54B, is far from the end of a word. -/
theorem fontAddr_toNat (digit : Byte) : (fontAddr digit).toNat = 0x050 + 5 * digit.toNat := by
  have := digit.isLt
  rw [fontAddr, BitVec.toNat_ofNat]
  exact Nat.mod_eq_of_lt (by simp only [Config.fontBase, Config.glyphBytes]; omega)

/-- Settles O46: the sum wraps at 16 bits, and the font address does not reach them. -/
theorem indexUpdatesComputeI : Obligations.IndexUpdatesComputeI :=
  ⟨decodes_familyKK .addI 0xF 0x1E fun _ => ⟨rfl, rfl⟩,
    decodes_familyKK .ldF 0xF 0x29 fun _ => ⟨rfl, rfl⟩,
    fun x s =>
      ⟨⟨s.i + byteWord (s.reg x), by rw [BitVec.toNat_add, byteWord_toNat], rfl⟩,
        fontAddr (s.reg x), fontAddr_toNat (s.reg x), rfl⟩⟩

/-! ### What a block store writes and leaves as it was (R90) -/

theorem readByte_storeBytes_inside (s : State) (base : Nat) {ws : List Byte} {k : Nat}
    (h : k < ws.length) : (s.storeBytes base ws).readByte (base + k) = ws[k] := by
  rw [readByte_storeBytes, dif_pos (by omega)]
  simp only [Nat.add_sub_cancel_left]

theorem readByte_storeBytes_outside (s : State) {base a : Nat} {ws : List Byte}
    (h : a < base ∨ base + ws.length ≤ a) : (s.storeBytes base ws).readByte a = s.readByte a := by
  rw [readByte_storeBytes, dif_neg (by omega)]

/-! ### LD B (R296) -/

theorem exec_ldB_of_inside (x : Reg) {s : State} (h : Inside s.i.toNat 3) :
    exec (.ldB x) s = .next (s.storeBytes s.i.toNat (bcdDigits (s.reg x))) := by
  rw [exec, execLdB, firstOutside_of_inside h]

theorem exec_ldB_of_not_inside (x : Reg) {s : State} (h : ¬Inside s.i.toNat 3) :
    exec (.ldB x) s = .next (faulted s (.ldB x) .memBounds (lowestOutside s.i.toNat)) := by
  rw [exec, execLdB, firstOutside_of_not_inside h, ← raise_eq_faulted]

/-- A decimal digit fits a byte. -/
theorem byte_ofNat_toNat {d : Nat} (h : d < 10) : (BitVec.ofNat 8 d).toNat = d :=
  (BitVec.toNat_ofNat d 8).trans (Nat.mod_eq_of_lt (by omega))

/-- Settles O47: the three digits are a block store, each read back at its place. -/
theorem ldBStoresDigits : Obligations.LdBStoresDigits := by
  refine ⟨decodes_familyKK .ldB 0xF 0x33 fun _ => ⟨rfl, rfl⟩, fun x s =>
    ⟨fun hin => ⟨_, exec_ldB_of_inside x hin, ?_⟩, exec_ldB_of_not_inside x⟩⟩
  have hdigit (k : Nat) (hk : k < 3) :=
    readByte_storeBytes_inside s s.i.toNat (ws := bcdDigits (s.reg x)) hk
  have := (s.reg x).isLt
  refine ⟨?_, ?_, ?_, fun a ha => readByte_storeBytes_outside s ha, storeBytes_eq _ _ _⟩
  · exact (congrArg _ (hdigit 0 (by omega))).trans (byte_ofNat_toNat (by omega))
  · exact (congrArg _ (hdigit 1 (by omega))).trans (byte_ofNat_toNat (by omega))
  · exact (congrArg _ (hdigit 2 (by omega))).trans (byte_ofNat_toNat (by omega))

/-! ### LD [I] (R297) -/

theorem exec_storeRegs_of_inside (x : Reg) {s : State} (h : Inside s.i.toNat (x.val + 1)) :
    exec (.storeRegs x) s = .next (s.storeBytes s.i.toNat (s.regsUpTo x)) := by
  rw [exec, execStoreRegs, firstOutside_of_inside h]

theorem exec_storeRegs_of_not_inside (x : Reg) {s : State} (h : ¬Inside s.i.toNat (x.val + 1)) :
    exec (.storeRegs x) s =
      .next (faulted s (.storeRegs x) .memBounds (lowestOutside s.i.toNat)) := by
  rw [exec, execStoreRegs, firstOutside_of_not_inside h, ← raise_eq_faulted]

/-- Settles O48: the block is V0..Vx inclusive of Vx, and a block store reads back register by register. -/
theorem storeRegsWritesTheBlock : Obligations.StoreRegsWritesTheBlock := by
  refine ⟨decodes_familyKK .storeRegs 0xF 0x55 fun _ => ⟨rfl, rfl⟩, fun x s =>
    ⟨fun hin => ⟨_, exec_storeRegs_of_inside x hin, fun k hk => ?_, fun a ha => ?_,
      storeBytes_eq _ _ _⟩, exec_storeRegs_of_not_inside x⟩⟩
  · have hlen : k.val < (s.regsUpTo x).length := by
      rw [regsUpTo_length]
      exact Nat.lt_succ_of_le hk
    rw [readByte_storeBytes_inside s _ hlen]
    simp [State.regsUpTo, State.reg]
  · exact readByte_storeBytes_outside s (by rwa [regsUpTo_length])

/-! ### LD Vx, [I] (R298) -/

theorem exec_loadRegs_of_inside (x : Reg) {s : State} (h : Inside s.i.toNat (x.val + 1)) :
    exec (.loadRegs x) s = .next (s.loadRegs s.i.toNat x) := by
  rw [exec, execLoadRegs, firstOutside_of_inside h]

theorem exec_loadRegs_of_not_inside (x : Reg) {s : State} (h : ¬Inside s.i.toNat (x.val + 1)) :
    exec (.loadRegs x) s =
      .next (faulted s (.loadRegs x) .memBounds (lowestOutside s.i.toNat)) := by
  rw [exec, execLoadRegs, firstOutside_of_not_inside h, ← raise_eq_faulted]

/-- Settles O49: the load is one update of the registers, with the bytes of the block up to x. -/
theorem loadRegsReadsTheBlock : Obligations.LoadRegsReadsTheBlock := by
  refine ⟨decodes_familyKK .loadRegs 0xF 0x65 fun _ => ⟨rfl, rfl⟩, fun x s =>
    ⟨fun hin => ⟨_, exec_loadRegs_of_inside x hin, fun k hk => ?_, fun k hk => ?_, rfl⟩,
      exec_loadRegs_of_not_inside x⟩⟩
  · rw [reg_loadRegs, if_pos hk]
  · rw [reg_loadRegs, if_neg (not_le.2 hk)]

end Sys2Proof.Proofs
end

section
/-! The statements of 60_exceptions.md: a fault is precise and atomic, the fault table, the way out of the
faulted state, and the two host transactions of the keypad and the display. -/

namespace Sys2Proof.Proofs
open Sys2Proof.Machine Sys2Proof.Laws Sys2Proof.Claims

/-! ### A fault is precise and atomic (R321, R322) -/

/-- An instruction of a running block raises a fault, or leaves the block running. -/
theorem raise_or_running_of_effect {s t : State} {i : Instr} (h : Effect s i t)
    (hs : s.fault = none) : (∃ kind info, t = s.raise i kind info) ∨ t.fault = none := by
  cases h with
  | raises _ kind info => exact .inl ⟨kind, info, rfl⟩
  | registers | delay | sound | call | ret | diag => exact .inr hs
  | cls => exact .inr ((announceDraw_fault _).trans hs)
  | drw _ _ _ u hu =>
    have hfault : u.fault = s.fault := by rw [hu.1]; rfl
    exact .inr ((announceDraw_fault u).trans (hfault.trans hs))
  | digits | block => rw [storeBytes_eq]; exact .inr hs

/-- A step that faults does so in the fetch, or its instruction raised the fault and ended the cycle. -/
theorem faulting_step_cases {s t : State} {record : FaultRecord} (hs : s.fault = none)
    (h : step s = .next t) (ht : t.fault = some record) :
    (0xFFE < s.pc.toNat ∧
      t = s.clearEvents.enterFault .memBounds s.pc none (max s.pc.toNat 4096)) ∨
    (s.pc.toNat ≤ 0xFFE ∧ ∃ op kind info, s.fetch = .ok op ∧
      t = (started s).raise (decode op) kind info) := by
  obtain ⟨hne, -⟩ | ⟨-, hpc, rfl⟩ | ⟨-, op, u, hop, hpc, hu, rfl⟩ := step_cases h
  · exact absurd hs hne
  · exact .inl ⟨hpc, rfl⟩
  · rw [afterExecute_fault] at ht
    obtain ⟨kind, info, rfl⟩ | hnone := raise_or_running_of_effect (effect_of_exec hu) hs
    · exact .inr ⟨hpc, op, kind, info, hop, by rw [afterExecute_eq_ite, if_neg (by simp)]⟩
    · simp [ht] at hnone

/-- An instruction's fault takes back the advance, and its record holds the fetched opcode. -/
theorem raise_started (s : State) (op : Word) (kind : FaultKind) (info : Nat) :
    (started s).raise (decode op) kind info =
      (started s).enterFault kind s.pc (some op) info := by
  have hpc : (started s).pc - 2 = s.pc := word_add_two_sub_two s.pc
  rw [State.raise, hpc, (decodeThenEncode op).2]

/-- Settles O16: the fault of a fetch or of an instruction is entered from a state that differs from s only
in the model's own fields and in pc, which the fault puts back. -/
theorem faultingStepChangesOnlyFault : Obligations.FaultingStepChangesOnlyFault := by
  intro s t record hs h ht
  obtain ⟨hpc, rfl⟩ | ⟨hpc, op, kind, info, hop, rfl⟩ := faulting_step_cases hs h ht
  · cases ht
    exact ⟨rfl, rfl, rfl, (if_neg (by omega)).symm⟩
  · rw [raise_started] at ht ⊢
    cases ht
    rw [fetch_eq, if_pos hpc] at hop
    cases hop
    exact ⟨rfl, rfl, rfl, (if_pos hpc).symm⟩

/-! ### The fault table (R323) -/

/-- i does what the fault table says of it in s. -/
def FaultsAsTabled (i : Instr) (s : State) : Prop :=
  (∃ kind info, raises i s = some (kind, info) ∧ exec i s = .next (faulted s i kind info)) ∨
    (raises i s = none ∧ ∃ t, exec i s = .next t ∧ t.fault = s.fault)

/-- An instruction with no row in the table. -/
theorem faultsAsTabled_of_unlisted {i : Instr} {s t : State} (hrow : raises i s = none)
    (hexec : exec i s = .next t) (ht : t.fault = s.fault) : FaultsAsTabled i s :=
  .inr ⟨hrow, t, hexec, ht⟩

/-- An instruction whose row has the condition c. -/
theorem faultsAsTabled_of_row {i : Instr} {s : State} {c : Prop} [Decidable c] {kind : FaultKind}
    {info : Nat} (hrow : raises i s = if c then some (kind, info) else none)
    (hfaults : c → exec i s = .next (faulted s i kind info))
    (hcompletes : ¬c → ∃ t, exec i s = .next t ∧ t.fault = s.fault) : FaultsAsTabled i s := by
  by_cases hc : c
  · exact .inl ⟨kind, info, hrow.trans (if_pos hc), hfaults hc⟩
  · exact .inr ⟨hrow.trans (if_neg hc), hcompletes hc⟩

theorem not_inside_iff {base n : Nat} : ¬Inside base n ↔ n ≠ 0 ∧ base + n > 4096 := by
  rw [Inside, not_or, not_le]

theorem storeBytes_fault (s : State) (base : Nat) (ws : List Byte) :
    (s.storeBytes base ws).fault = s.fault := by
  rw [storeBytes_eq]

theorem drawn_announceDraw_fault (x y : Reg) (n : Nibble) (s : State) :
    (drawn x y n s).announceDraw.fault = s.fault := by
  rw [announceDraw_of_onlyDraws (drawn_onlyDraws x y n s)]

theorem faultsAsTabled_ldVxK (x : Reg) (s : State) : FaultsAsTabled (.ldVxK x) s := by
  cases hkey : s.lowestKeyDown with
  | none => exact faultsAsTabled_of_unlisted rfl (by rw [exec, execLdVxK, hkey]) (setPc_fault _ _)
  | some k => exact faultsAsTabled_of_unlisted rfl (by rw [exec, execLdVxK, hkey]) (setReg_fault _ _ _)

/-- Every instruction, by its row in the table or the lack of one. -/
theorem faultsAsTabled (i : Instr) (s : State) : FaultsAsTabled i s := by
  cases i with
  | callAddr nnn =>
    exact faultsAsTabled_of_row rfl (exec_callAddr_of_full nnn)
      fun h => ⟨_, exec_callAddr_of_lt nnn (by omega), rfl⟩
  | ret z =>
    exact faultsAsTabled_of_row rfl (exec_ret_of_empty z) fun h => ⟨_, exec_ret_of_ne_zero z h, rfl⟩
  | skp x =>
    exact faultsAsTabled_of_row rfl (exec_skp_of_gt x)
      fun h => ⟨_, exec_skp_of_lt x (by omega), skipIf_fault _ _⟩
  | sknp x =>
    exact faultsAsTabled_of_row rfl (exec_sknp_of_gt x)
      fun h => ⟨_, exec_sknp_of_lt x (by omega), skipIf_fault _ _⟩
  | drw x y n =>
    exact faultsAsTabled_of_row rfl (fun h => exec_drw_of_not_inside x y (not_inside_iff.2 h))
      fun h => ⟨_, exec_drw_of_inside x y (not_not.1 (mt not_inside_iff.1 h)),
        drawn_announceDraw_fault x y n s⟩
  | ldB x =>
    exact faultsAsTabled_of_row rfl
      (fun h => exec_ldB_of_not_inside x (not_inside_iff.2 ⟨by omega, h⟩))
      fun h => ⟨_, exec_ldB_of_inside x (.inr (not_lt.1 h)), storeBytes_fault _ _ _⟩
  | storeRegs x =>
    exact faultsAsTabled_of_row rfl
      (fun h => exec_storeRegs_of_not_inside x (not_inside_iff.2 ⟨by omega, h⟩))
      fun h => ⟨_, exec_storeRegs_of_inside x (.inr (not_lt.1 h)), storeBytes_fault _ _ _⟩
  | loadRegs x =>
    exact faultsAsTabled_of_row rfl
      (fun h => exec_loadRegs_of_not_inside x (not_inside_iff.2 ⟨by omega, h⟩))
      fun h => ⟨_, exec_loadRegs_of_inside x (.inr (not_lt.1 h)), rfl⟩
  | ldVxK x => exact faultsAsTabled_ldVxK x s
  | cls => exact faultsAsTabled_of_unlisted rfl rfl (announceDraw_fault _)
  | seByte | sneByte | seReg | sneReg => exact faultsAsTabled_of_unlisted rfl rfl (skipIf_fault _ _)
  | sys | jpAddr | ldByte | addByte | ldReg | orReg | andReg | xorReg | addReg | subReg | shr | subn
  | shl | ldI | jpV0 | rnd | ldVxDT | ldDTVx | ldSTVx | addI | ldF | unimplemented =>
    exact faultsAsTabled_of_unlisted rfl rfl rfl

/-- Settles O17: every instruction by its row, and the fetch by its own rule. -/
theorem execFaultsAsTabled : Obligations.ExecFaultsAsTabled := by
  refine ⟨fun i s hs => ?_, fun s hs hpc => ⟨_, step_of_fetch_error hs hpc, rfl⟩,
    rfl, rfl, rfl, rfl⟩
  obtain ⟨kind, info, hrow, hexec⟩ | ⟨hrow, t, hexec, ht⟩ := faultsAsTabled i s
  · exact ⟨_, hexec, by rw [hrow]⟩
  · exact ⟨t, hexec, by rw [hrow]; exact ht.trans hs⟩

/-! ### The way out of the faulted state (R325, R350) -/

/-- No observer runs in a cycle that does nothing. -/
theorem observedCycle_of_fault {s : State} (r : RndArg) (calls : List ObserverCall)
    (h : s.fault ≠ none) : observedCycle r calls s = .next s := by
  have hidle : ¬observerRan s s = true := by simp [observerRan]
  rw [observedCycle_of_cycle calls (cycle_of_fault r h), if_neg hidle]

theorem runCycles_of_fault (k : Nat) (rnds : List Byte) (calls : List (List ObserverCall)) {s : State}
    (h : s.fault ≠ none) : runCycles k rnds calls s = .next s := by
  induction k generalizing rnds calls with
  | zero => rfl
  | succ k ih =>
    rw [runCycles_succ, observedCycle_of_fault _ _ h]
    exact ih rnds.tail calls.tail

theorem loadProgram_fault (s : State) (bytes : List Byte) :
    (s.loadProgram bytes).2.fault = s.fault := by
  unfold State.loadProgram
  split
  · exact storeBytes_fault _ _ _
  · rfl

theorem setKeyTransaction_fault (s : State) (index : Int) (pressed : Bool) :
    (s.setKeyTransaction index pressed).fault = s.fault := by
  unfold State.setKeyTransaction
  split <;> rfl

/-- In a faulted block every transaction but Reset answers a state with the record it found. -/
theorem transact_keeps_fault {q : Transaction} {s : State} (hq : q ≠ .reset) (h : s.fault ≠ none) :
    ∃ t reply, transact q s = .next (t, reply) ∧ t.fault = s.fault := by
  cases q with
  | reset => exact absurd rfl hq
  | loadProgram bytes => exact ⟨_, _, rfl, loadProgram_fault _ bytes⟩
  | setKey index pressed => exact ⟨_, _, rfl, setKeyTransaction_fault _ index pressed⟩
  | getScreen | setDrawCallback | setSoundCallback => exact ⟨_, _, rfl, rfl⟩
  | cycle r calls =>
    refine ⟨s.clearEvents, .none, ?_, rfl⟩
    rw [transact, observedCycle_of_fault (s := s.clearEvents) r calls h, withoutReply]
  | runFrame count rnds calls =>
    refine ⟨s.clearEvents, .none, ?_, rfl⟩
    rw [transact, runFrame, runCycles_of_fault (s := s.clearEvents) _ rnds calls h, withoutReply]

/-- Settles O18: no transaction but Reset writes the record of a faulted block, and Reset builds a state
without one. -/
theorem onlyResetClearsAFault : Obligations.OnlyResetClearsAFault := by
  refine ⟨fun q s t reply record hq hs h => ?_, fun s => ⟨_, rfl, rfl⟩⟩
  have hfaulted : s.fault ≠ none := by simp [hs]
  obtain ⟨u, reply', hu, hfault⟩ := transact_keeps_fault hq hfaulted
  cases hu.symm.trans h
  exact hfault.trans hs

/-! ### The keypad and the display as devices (R336, R338) -/

/-- SetKey in a key's own terms: the index names the key, or the key stays. -/
theorem key_setKeyTransaction (s : State) (index : Int) (pressed : Bool) (k : Fin 16) :
    (s.setKeyTransaction index pressed).key[k.val] =
      if (k.val : Int) = index then pressed else s.key[k.val] := by
  unfold State.setKeyTransaction
  split
  next hin =>
    simp only [setKey_key, Vector.getElem_set]
    exact if_congr (by omega) rfl rfl
  next hout => rw [if_neg (by omega)]

/-- SetKey is an update of the keypad alone. -/
theorem setKeyTransaction_eq (s : State) (index : Int) (pressed : Bool) :
    s.setKeyTransaction index pressed =
      { s with key := (s.setKeyTransaction index pressed).key } := by
  unfold State.setKeyTransaction
  split <;> rfl

/-- Settles O52: an index outside 0..15 is no key's number, so one rule serves both cases. -/
theorem setKeyChangesOneKey : Obligations.SetKeyChangesOneKey :=
  fun s index pressed => ⟨_, rfl, key_setKeyTransaction s.clearEvents index pressed,
    setKeyTransaction_eq s.clearEvents index pressed⟩

/-- Settles O53: the copy of the framebuffer, pixel by pixel. -/
theorem getScreenIsRowMajor : Obligations.GetScreenIsRowMajor :=
  fun s => ⟨s.screen, rfl, screen_length s, screen_getElem? s⟩

end Sys2Proof.Proofs
end

section
/-! The statements of 70_reset_and_hazards.md: LoadProgram, the invariants right after construction, and
Reset. -/

namespace Sys2Proof.Proofs
open Sys2Proof.Machine Sys2Proof.Laws Sys2Proof.Claims

/-! ### LoadProgram (R353, R354) -/

theorem loadProgram_of_fits {s : State} {bytes : List Byte} (h : bytes.length ≤ 3584) :
    s.loadProgram bytes = (.ok, (s.storeBytes 0x200 bytes).setPc 0x200) :=
  if_pos (show bytes.length + 0x200 ≤ 4096 by omega)

theorem loadProgram_of_too_long {s : State} {bytes : List Byte} (h : 3584 < bytes.length) :
    s.loadProgram bytes = (.sizeViolation, s) :=
  if_neg (show ¬bytes.length + 0x200 ≤ 4096 by omega)

/-- Settles O50: a program that fits is one block store and one write of pc, and one that does not fit is
refused before either. -/
theorem loadProgramIsAllOrNothing : Obligations.LoadProgramIsAllOrNothing := by
  refine fun s bytes => ⟨fun h => ⟨(s.clearEvents.storeBytes 0x200 bytes).setPc 0x200, ?_,
    fun k hk => readByte_storeBytes_inside s.clearEvents 0x200 hk,
    fun a ha => readByte_storeBytes_outside s.clearEvents ha, ?_⟩, fun h => ?_⟩
  · rw [transact, loadProgram_of_fits h]
  · rw [storeBytes_eq]; rfl
  · rw [transact, loadProgram_of_too_long h]; rfl

/-! ### A newly built block (R350, R351) -/

theorem construct_memCanonical (fontset : Vector Byte 80) : (State.construct fontset).memCanonical :=
  ⟨.nil, fun _ h => absurd h List.not_mem_nil⟩

theorem construct_pcBounded (fontset : Vector Byte 80) : (State.construct fontset).pcBounded := by
  simp [State.pcBounded, State.construct]

/-- Settles O15: an empty list of bytes is canonical, and pc and the stack are zero; State.reset is a
construction. -/
theorem constructionMeetsInvariants : Obligations.ConstructionMeetsInvariants :=
  ⟨construct_memCanonical _, construct_pcBounded _,
    fun fontset => ⟨construct_memCanonical fontset, construct_pcBounded fontset⟩⟩

/-! ### Reset (R44, R350, R351) -/

theorem unlisted_outside_font (fontset : Vector Byte 80) {a : Nat} (h : a < 0x050 ∨ 0x0A0 ≤ a) :
    Memory.unlisted fontset a = 0 :=
  dif_neg (by omega)

theorem unlisted_inside_font (fontset : Vector Byte 80) {d : Nat} (h : d < 80) :
    Memory.unlisted fontset (0x050 + d) = fontset[d] := by
  rw [Memory.unlisted, dif_pos (by omega)]
  simp only [Nat.add_sub_cancel_left]

/-- Settles O51: Reset is a construction with the observers and the model's own count kept, and memory that
lists no byte reads as FONTSET and zero. -/
theorem resetRestoresEveryElement : Obligations.ResetRestoresEveryElement :=
  fun s => ⟨s.clearEvents.resetTransaction, rfl,
    fun _ ha => unlisted_outside_font s.fontset ha,
    fun _ hd => unlisted_inside_font s.fontset hd,
    fun k => ⟨Vector.getElem_replicate k.isLt, Vector.getElem_replicate k.isLt,
      Vector.getElem_replicate k.isLt⟩,
    rfl, rfl, rfl, rfl, rfl, fun r c => pixel_clearScreen s r c,
    rfl, rfl, rfl, rfl, rfl, rfl, rfl⟩

end Sys2Proof.Proofs
end
